-- ==== Sys2Proof/Word.lean ====
section
/-! DEFINITION. The word types of RK-I2CM and the one-bit byte of 00_scope.md R10. What has a parameter for its width
(TIMEOUT_W, CLOCK_W, COUNT_W) is a natural number below 2 to that width. -/

namespace Sys2Proof

/-- A byte: BCI registers, statuses, results, payload (00_scope.md R8). -/
abbrev Byte := BitVec 8

/-- A host command word (30_encoding.md R80). -/
abbrev CommandWord := BitVec 32

/-- A 7-bit slave address (10_state.md R24). -/
abbrev SlaveAddr := BitVec 7

/-- A bit position of a byte. -/
abbrev BitPos := Fin 8

/-- `bit(P) = 1 << P` at 8 bits (00_scope.md R10). -/
def bit (p : BitPos) : Byte := 1#8 <<< p.val

end Sys2Proof
end

