-- ==== Sys2Proof/Config.lean ====
section
/-! DEFINITION. What an implementation fixes (00_scope.md R6, R7) and the free values the spec leaves open
(93_implementation_defined.md section 1). "The model takes every parameter in the table below as a configuration
argument" (R6): each row but E_TIMEOUT, which the source fixes, is a field of `Params`, which a state carries, so that a
statement about every state is about every value of them (log 3). -/

namespace Sys2Proof.Config

/-- E_TIMEOUT, the generic sentinel: "1 (fixed by source)" (R6). -/
def eTimeout : Byte := 1#8

/-- The BCI registers the engine uses, named symbolically (20_memory.md R61). -/
inductive BciReg where
  | cr
  | sr
  | dr
  | br
deriving DecidableEq, Repr

/-- TIMEOUT_AT_EQUAL (R6, D14). -/
inductive AtEqual where
  | never
  | may
deriving DecidableEq, Repr

/-- The divider preset for nominal frequency `f`, `(F_CPU div f - 16) div 2` (30_encoding.md R90), before it is narrowed
to a byte. -/
def divider (fCpu f : Nat) : Nat := (fCpu / f - 16) / 2

/-- The parameters of R6 a machine is built with, in the order of its table. The presets default to R90's formulas. -/
structure Params where
  /-- Bit positions of CR. -/
  crInt : BitPos
  crEa : BitPos
  crSta : BitPos
  crSto : BitPos
  crWc : BitPos
  crEn : BitPos
  crIe : BitPos
  /-- The status field of SR. -/
  srMask : Byte
  /-- The prescaler field of SR. -/
  srPsMask : Byte
  stStart : Byte
  stRepStart : Byte
  stMtSlaAck : Byte
  stMtSlaNack : Byte
  stMtDataAck : Byte
  stMtDataNack : Byte
  stArbLost : Byte
  stMrSlaAck : Byte
  stMrSlaNack : Byte
  stMrDataAck : Byte
  stMrDataNack : Byte
  eAddrTx : Byte
  eTx : Byte
  eRstart : Byte
  eAddrRx : Byte
  eRx : Byte
  eStop : Byte
  /-- F_CPU, OPEN: "which have no default the model may rely on" (92_eei_decisions.md). -/
  fCpu : Nat
  brSlow : Byte := BitVec.ofNat 8 (divider fCpu 100000)
  brFast : Byte := BitVec.ofNat 8 (divider fCpu 400000)
  psBase : Byte
  /-- TIMEOUT_W, CLOCK_W and COUNT_W: the widths of TIMEOUT, of the Time Source and of the byte count, in bits. -/
  timeoutW : Nat
  clockW : Nat
  countW : Nat
  /-- BUF_SIZE, in bytes. -/
  bufSize : Nat
  timeoutAtEqual : AtEqual
  /-- BCI register addresses. "No engine rule depends on the addresses" (20_memory.md R61). -/
  aBr : Nat
  aSr : Nat
  aDr : Nat
  aCr : Nat
  /-- BCI registers after power-on (D28). -/
  crReset : Byte
  srReset : Byte
  brReset : Byte
  drReset : Byte
deriving DecidableEq, Repr

/-- The address of a BCI register (20_memory.md R61). -/
def bciAddress (p : Params) : BciReg → Nat
  | .br => p.aBr
  | .sr => p.aSr
  | .dr => p.aDr
  | .cr => p.aCr

namespace Params

/-- The defaults of R6 for a given F_CPU: PRESUMED by the spec from the AVR TWI, log 2. -/
def withClock (hz : Nat) : Params where
  crInt := 7
  crEa := 6
  crSta := 5
  crSto := 4
  crWc := 3
  crEn := 2
  crIe := 0
  srMask := 0xF8#8
  srPsMask := 0x03#8
  stStart := 0x08#8
  stRepStart := 0x10#8
  stMtSlaAck := 0x18#8
  stMtSlaNack := 0x20#8
  stMtDataAck := 0x28#8
  stMtDataNack := 0x30#8
  stArbLost := 0x38#8
  stMrSlaAck := 0x40#8
  stMrSlaNack := 0x48#8
  stMrDataAck := 0x50#8
  stMrDataNack := 0x58#8
  eAddrTx := 2#8
  eTx := 3#8
  eRstart := 4#8
  eAddrRx := 5#8
  eRx := 6#8
  eStop := 7#8
  fCpu := hz
  psBase := 0x00#8
  timeoutW := 16
  clockW := 32
  countW := 8
  bufSize := 256
  timeoutAtEqual := .never
  aBr := 0xB8
  aSr := 0xB9
  aDr := 0xBB
  aCr := 0xBC
  crReset := 0x00#8
  srReset := 0xF8#8
  brReset := 0x00#8
  drReset := 0xFF#8

/-- The defaults of R6, with the F_CPU of the spec's examples. DESIGN CHOICE for F_CPU, log 3. -/
def default : Params := withClock 16000000

/-- The eleven ST_ codes (R7(a)). -/
def statusCodes (p : Params) : List Byte :=
  [p.stStart, p.stRepStart, p.stMtSlaAck, p.stMtSlaNack, p.stMtDataAck, p.stMtDataNack,
   p.stArbLost, p.stMrSlaAck, p.stMrSlaNack, p.stMrDataAck, p.stMrDataNack]

/-- The six phase-timeout constants (R7(d)). -/
def phaseConstants (p : Params) : List Byte :=
  [p.eAddrTx, p.eTx, p.eRstart, p.eAddrRx, p.eRx, p.eStop]

/-- The seven named bit positions of CR (10_state.md R31). -/
def crPositions (p : Params) : List BitPos := [p.crInt, p.crEa, p.crSta, p.crSto, p.crWc, p.crEn, p.crIe]

/-- The bits of CR that have a name; the other one is reserved (10_state.md R31). -/
def crNamed (p : Params) : Byte := p.crPositions.foldl (fun w i => w ||| bit i) 0#8

/-- R7(a) to (d), which "the parameters obey": distinct masked status codes, no masked value among 1 to 7, distinct
result constants in 1 to 7. -/
def codesOk (p : Params) : Bool :=
  p.statusCodes.Nodup
  && p.statusCodes.all (fun v => v &&& p.srMask == v)
  && p.srMask &&& 0x07#8 == 0#8
  && (eTimeout :: p.phaseConstants).Nodup
  && (eTimeout :: p.phaseConstants).all (fun v => 1#8 ≤ v && v ≤ 7#8)

/-- What the layout tables take for granted: seven different bits of CR (10_state.md R31), a prescaler field apart from
the status field (R32), and a power-on CR that says ON = 0, no STOP pending, IE = 0 and nothing in the reserved bit
(R40). DEDUCED, log 27. -/
def layoutOk (p : Params) : Bool :=
  p.crPositions.Nodup
  && p.srMask &&& p.srPsMask == 0#8
  && p.crReset &&& (bit p.crEn ||| bit p.crSto ||| bit p.crIe ||| ~~~p.crNamed) == 0#8

/-- Widths the formats have room for (30_encoding.md R81), T not wider than the clock it is compared with (42_phases.md
R162), and a BUF that holds every index the engine forms (20_memory.md R60). DEDUCED, log 27. -/
def widthsOk (p : Params) : Bool :=
  (1 ≤ p.timeoutW && p.timeoutW ≤ 28 && p.timeoutW ≤ p.clockW)
  && (1 ≤ p.countW && p.countW ≤ 13 && 2 ^ p.countW - 1 ≤ p.bufSize)

/-- The constraints a statement may assume of the parameters (R7). (e) holds by the presets' type. -/
def wf (p : Params) : Bool := p.codesOk && p.layoutOk && p.widthsOk

/-- R90: the presets are its formulas and lie in 0 to 255, so that the byte loses nothing (R7(e)). -/
def presetsDerived (p : Params) : Bool :=
  16 ≤ p.fCpu / 400000 && divider p.fCpu 100000 ≤ 255
  && p.brSlow.toNat == divider p.fCpu 100000 && p.brFast.toNat == divider p.fCpu 400000

end Params

/-! Free values: constants with no body. Applied to the draw counter of State; no proof can see what they are (log 8). -/

/-- INT after a disable: "any bit" (44_bus_controller.md R218, U4). -/
opaque freeInt : Nat → Bool

/-- The status field of SR after a disable: "any masked value" (R218, U4); masked where it is used. -/
opaque freeStatus : Nat → Byte

/-- Whether a DR write with INT = 0 is taken: the draw of {old DR, b} (R217, U5). -/
opaque freeDrTaken : Nat → Bool

/-- A CR bit other than INT and STO, on a read: "unspecified" (R211, U6). -/
opaque freeCrBit : Nat → BitPos → Bool

/-- Byte `i` of BUF after a READ that failed: "the model draws any byte for each" (41_transactions.md R135, U7). -/
opaque freeBuf : Nat → Nat → Byte

/-- The draw at the boundary tick under TIMEOUT_AT_EQUAL = MAY (42_phases.md R162, U12). -/
opaque freeAtEqual : Nat → Bool

end Sys2Proof.Config
end

