-- ==== Sys2Proof/Syntax.lean ====
section
/-! DEFINITION. The instructions: one constructor per row of spec/opcode_table.json (six host commands, seven BCI
control words), and the lines of the spec's assembly syntax (30_encoding.md R91). -/

namespace Sys2Proof

/-- The rows of the opcode table (30_encoding.md R82, R85). `ms` and `count` are TIMEOUT_W and COUNT_W bits wide, which
WellFormed.lean checks. -/
inductive Instr where
  /-- BEGIN, format N (40_lifecycle.md R111). -/
  | beginCmd
  /-- END, format N (R112). -/
  | endCmd
  /-- TIMEOUT ms, format T (R113). -/
  | timeoutCmd (ms : Nat)
  /-- SETSPEED fast, format S (R114). -/
  | setSpeed (fast : Bool)
  /-- WRITE addr, reg, count, format X (41_transactions.md R131). -/
  | write (addr : SlaveAddr) (reg : Byte) (count : Nat)
  /-- READ addr, reg, count, format X (R132). -/
  | read (addr : SlaveAddr) (reg : Byte) (count : Nat)
  /-- W_START (30_encoding.md R85). -/
  | wStart
  /-- W_SEND (R85). -/
  | wSend
  /-- W_RACK (R85). -/
  | wRack
  /-- W_RNACK (R85). -/
  | wRnack
  /-- W_STOP (R85). -/
  | wStop
  /-- W_ENABLE (R85). -/
  | wEnable
  /-- W_OFF (R85). -/
  | wOff
deriving DecidableEq, Repr

namespace Instr

/-- The six host commands, as against the BCI control words (30_encoding.md, its opening list). -/
def isCommand : Instr → Bool
  | .beginCmd => true
  | .endCmd => true
  | .timeoutCmd _ => true
  | .setSpeed _ => true
  | .write _ _ _ => true
  | .read _ _ _ => true
  | .wStart => false
  | .wSend => false
  | .wRack => false
  | .wRnack => false
  | .wStop => false
  | .wEnable => false
  | .wOff => false

/-- The control words RECV_BYTE writes: only these are told from W_SEND by SEQ (70_reset_and_hazards.md R287). -/
def isReceive : Instr → Bool
  | .wRack => true
  | .wRnack => true
  | .wStart => false
  | .wSend => false
  | .wStop => false
  | .wEnable => false
  | .wOff => false
  | .beginCmd => false
  | .endCmd => false
  | .timeoutCmd _ => false
  | .setSpeed _ => false
  | .write _ _ _ => false
  | .read _ _ _ => false

end Instr

/-- One line of the assembly syntax, operands as the numbers written (30_encoding.md R91). SLOW is 0, FAST is 1. -/
inductive AsmLine where
  | beginLine
  | endLine
  | timeoutLine (ms : Nat)
  /-- The pseudo-instruction NOTIMEOUT. -/
  | noTimeoutLine
  | setSpeedLine (fast : Nat)
  | writeLine (addr reg count : Nat)
  | readLine (addr reg count : Nat)
  /-- The directive `.buf b0, b1, ...`. -/
  | bufLine (bytes : List Nat)
  /-- The directive `.wait`. -/
  | waitLine
deriving DecidableEq, Repr

end Sys2Proof
end

