-- ==== Sys2Proof/WellFormed.lean ====
section
/-! DEFINITION. What is well formed: an instruction whose operands fit their fields (30_encoding.md R81, R83), an
assembly line whose operands are in range (R91: "An operand out of range is an assembly error"). A command word (R84)
is rejected by the decoder, by name. -/

namespace Sys2Proof

/-- MS fits TIMEOUT_W bits: `0 <= ms < 2^TIMEOUT_W` (R91). -/
def msOk (p : Config.Params) (ms : Nat) : Bool := ms < 2 ^ p.timeoutW

/-- COUNT fits COUNT_W bits: `count < 2^COUNT_W` (R91). -/
def countOk (p : Config.Params) (count : Nat) : Bool := count < 2 ^ p.countW

/-- An instruction is well formed when its operands fit their fields; ADDR, REG and FAST do by their types. -/
def Instr.wellFormed (p : Config.Params) : Instr → Bool
  | .beginCmd => true
  | .endCmd => true
  | .timeoutCmd ms => msOk p ms
  | .setSpeed _ => true
  | .write _ _ count => countOk p count
  | .read _ _ count => countOk p count
  | .wStart => true
  | .wSend => true
  | .wRack => true
  | .wRnack => true
  | .wStop => true
  | .wEnable => true
  | .wOff => true

namespace AsmLine

/-- SLOW, FAST, 0 or 1 (R91). -/
def fastOk (fast : Nat) : Bool := fast < 2

/-- `addr < 0x80` (R91). -/
def addrOk (addr : Nat) : Bool := addr < 0x80

/-- `reg < 0x100` (R91). -/
def regOk (reg : Nat) : Bool := reg < 0x100

/-- `.buf` writes bytes at BUF[0], BUF[1], ...: each a byte, no more of them than BUF holds (R91, 20_memory.md R60). -/
def bytesOk (p : Config.Params) (bytes : List Nat) : Bool := bytes.length ≤ p.bufSize && bytes.all (· < 0x100)

/-- An assembly line is well formed when every operand is in range (R91). -/
def wellFormed (p : Config.Params) : AsmLine → Bool
  | .beginLine => true
  | .endLine => true
  | .timeoutLine ms => msOk p ms
  | .noTimeoutLine => true
  | .setSpeedLine fast => fastOk fast
  | .writeLine addr reg count => addrOk addr && regOk reg && countOk p count
  | .readLine addr reg count => addrOk addr && regOk reg && countOk p count
  | .bufLine bytes => bytesOk p bytes
  | .waitLine => true

end AsmLine

end Sys2Proof
end

