-- ==== Sys2Proof/Decode.lean ====
section
/-! DEFINITION. The decoder of command words and of control words, total and rejecting by name, the encoder written from
the same tables, the assembler, and the opcode map of 30_encoding.md R82, for the parameters of the machine. -/

namespace Sys2Proof

/-- Why a word decodes to no instruction. -/
inductive DecodeError where
  /-- OP is 0x6 to 0xF (30_encoding.md R84(a)). -/
  | reservedOpcode
  /-- A reserved bit of the word's format is nonzero (R84(b)). -/
  | reservedBits
  /-- A CR word that is none of the seven of R85 (44_bus_controller.md R220). -/
  | notAControlWord
deriving DecidableEq, Repr

/-! ## Control words (30_encoding.md R85) -/

def wStartWord (p : Config.Params) : Byte := bit p.crInt ||| bit p.crSta ||| bit p.crEn
def wSendWord (p : Config.Params) : Byte := bit p.crInt ||| bit p.crEn
def wRackWord (p : Config.Params) : Byte := bit p.crInt ||| bit p.crEa ||| bit p.crEn
def wRnackWord (p : Config.Params) : Byte := bit p.crInt ||| bit p.crEn
def wStopWord (p : Config.Params) : Byte := bit p.crInt ||| bit p.crSto ||| bit p.crEn
def wEnableWord (p : Config.Params) : Byte := bit p.crEn ||| bit p.crEa
def wOffWord : Byte := 0x00#8

/-- The control words "the engine writes exactly" (R85). -/
def controlWords (p : Config.Params) : List Byte :=
  [wStartWord p, wSendWord p, wRackWord p, wRnackWord p, wStopWord p, wEnableWord p, wOffWord]

/-! ## Host command words (30_encoding.md R81, R82, R83)

"If TIMEOUT_W differs from 16, MS is CMD[TIMEOUT_W-1:0] and the reserved field shrinks or grows to match." For another
COUNT_W "Format X is redefined by the model's configuration": COUNT takes the low COUNT_W bits, REG and ADDR stand above
it in their order, and the rest up to OP is reserved. DESIGN CHOICE, log 12. -/

/-- OP = CMD[31:28] (R82). -/
def opField (w : CommandWord) : BitVec 4 := w.extractLsb' 28 4

/-- MS = CMD[TIMEOUT_W-1:0] (R83). -/
def msField (p : Config.Params) (w : CommandWord) : Nat := (w.extractLsb' 0 p.timeoutW).toNat

/-- FAST = CMD[0] (R83). -/
def fastField (w : CommandWord) : Bool := w.getLsbD 0

/-- COUNT, REG and ADDR: CMD[7:0], CMD[15:8] and CMD[22:16] by default (R83). -/
def countField (p : Config.Params) (w : CommandWord) : Nat := (w.extractLsb' 0 p.countW).toNat
def regField (p : Config.Params) (w : CommandWord) : Byte := w.extractLsb' p.countW 8
def addrField (p : Config.Params) (w : CommandWord) : SlaveAddr := w.extractLsb' (p.countW + 8) 7

/-- The reserved bits of formats N, T, S and X: by default CMD[27:0], CMD[27:16], CMD[27:1], CMD[27:23] (R81). -/
def reservedN (w : CommandWord) : BitVec 28 := w.extractLsb' 0 28
def reservedT (p : Config.Params) (w : CommandWord) : BitVec (28 - p.timeoutW) := w.extractLsb' p.timeoutW _
def reservedS (w : CommandWord) : BitVec 27 := w.extractLsb' 1 27
def reservedX (p : Config.Params) (w : CommandWord) : BitVec (13 - p.countW) := w.extractLsb' (p.countW + 15) _

/-- "A decoder reads OP and then the format it names" (R81); ill-formed words are rejected by name (R84). -/
def decodeCommand (p : Config.Params) (w : CommandWord) : Except DecodeError Instr :=
  if opField w = 0x0#4 then
    if reservedN w = 0 then .ok .beginCmd else .error .reservedBits
  else if opField w = 0x1#4 then
    if reservedN w = 0 then .ok .endCmd else .error .reservedBits
  else if opField w = 0x2#4 then
    if reservedT p w = 0 then .ok (.timeoutCmd (msField p w)) else .error .reservedBits
  else if opField w = 0x3#4 then
    if reservedS w = 0 then .ok (.setSpeed (fastField w)) else .error .reservedBits
  else if opField w = 0x4#4 then
    if reservedX p w = 0 then .ok (.write (addrField p w) (regField p w) (countField p w)) else .error .reservedBits
  else if opField w = 0x5#4 then
    if reservedX p w = 0 then .ok (.read (addrField p w) (regField p w) (countField p w)) else .error .reservedBits
  else .error .reservedOpcode

/-- The instruction a control word is. W_SEND and W_RNACK are one bit pattern (R85), told apart by `receiving`: whether
SEQ is T_RDATA (70_reset_and_hazards.md R287). DEDUCED, log 14. -/
def decodeControl (p : Config.Params) (receiving : Bool) (w : Byte) : Except DecodeError Instr :=
  if w = wStartWord p then .ok .wStart
  else if w = wRackWord p then .ok .wRack
  else if w = wSendWord p then .ok (if receiving then .wRnack else .wSend)
  else if w = wStopWord p then .ok .wStop
  else if w = wEnableWord p then .ok .wEnable
  else if w = wOffWord then .ok .wOff
  else .error .notAControlWord

/-! ## The encoder -/

/-- A word of either kind: a host command (32 bits) or a BCI control word (8 bits). -/
inductive Encoded where
  | command (w : CommandWord)
  | control (w : Byte)
deriving DecidableEq, Repr

/-- A number in the bits of a word from bit `low` up. -/
def placed (low n : Nat) : CommandWord := BitVec.ofNat 32 (n * 2 ^ low)

/-- Formats N, T, S and X, written field by field from the tables of R81. -/
def formatN (op : BitVec 4) : CommandWord := placed 28 op.toNat
def formatT (op : BitVec 4) (ms : Nat) : CommandWord := placed 28 op.toNat ||| placed 0 ms
def formatS (op : BitVec 4) (fast : Bool) : CommandWord := placed 28 op.toNat ||| placed 0 fast.toNat
def formatX (p : Config.Params) (op : BitVec 4) (addr : SlaveAddr) (reg : Byte) (count : Nat) : CommandWord :=
  placed 28 op.toNat ||| placed (p.countW + 8) addr.toNat ||| placed p.countW reg.toNat ||| placed 0 count

/-- The word of an instruction (R81, R82, R85). -/
def encode (p : Config.Params) : Instr → Encoded
  | .beginCmd => .command (formatN 0x0#4)
  | .endCmd => .command (formatN 0x1#4)
  | .timeoutCmd ms => .command (formatT 0x2#4 ms)
  | .setSpeed fast => .command (formatS 0x3#4 fast)
  | .write addr reg count => .command (formatX p 0x4#4 addr reg count)
  | .read addr reg count => .command (formatX p 0x5#4 addr reg count)
  | .wStart => .control (wStartWord p)
  | .wSend => .control (wSendWord p)
  | .wRack => .control (wRackWord p)
  | .wRnack => .control (wRnackWord p)
  | .wStop => .control (wStopWord p)
  | .wEnable => .control (wEnableWord p)
  | .wOff => .control wOffWord

/-- Decoding either kind of word, in the sequencer's receive step or outside it. -/
def decode (p : Config.Params) (receiving : Bool) : Encoded → Except DecodeError Instr
  | .command w => decodeCommand p w
  | .control w => decodeControl p receiving w

/-- The instruction of a word numbered as spec/opcode_table.json numbers it: its rows are 32-bit command words and 8-bit
control words, in the default layout. Outside any sequencer step, so 0x84 is W_SEND (log 14). -/
def decodeTableWord (nbits w : Nat) : Option Instr :=
  let r :=
    if nbits ≤ 8 then decodeControl Config.Params.default false (BitVec.ofNat 8 w)
    else decodeCommand Config.Params.default (BitVec.ofNat 32 w)
  match r with
  | .ok i => some i
  | .error _ => none

/-! ## The opcode map (30_encoding.md R82) -/

/-- A row of R82's list: "match/mask pairs (mask covers OP and every reserved bit)". -/
structure OpcodeRow where
  pattern : CommandWord
  mask : CommandWord
deriving DecidableEq, Repr

/-- A word is of a row when its masked bits are the row's. -/
def OpcodeRow.covers (r : OpcodeRow) (w : CommandWord) : Bool := w &&& r.mask == r.pattern

/-- Every bit from bit `low` up: 0xFFFF0000 for T and 0xFF800000 for X by default. -/
def bitsFrom (low : Nat) : CommandWord := 0xFFFFFFFF#32 <<< low

def beginRow : OpcodeRow := ⟨0x00000000#32, 0xFFFFFFFF#32⟩
def endRow : OpcodeRow := ⟨0x10000000#32, 0xFFFFFFFF#32⟩
def timeoutRow (p : Config.Params) : OpcodeRow := ⟨0x20000000#32, bitsFrom p.timeoutW⟩
def setSpeedRow : OpcodeRow := ⟨0x30000000#32, 0xFFFFFFFE#32⟩
def writeRow (p : Config.Params) : OpcodeRow := ⟨0x40000000#32, bitsFrom (p.countW + 15)⟩
def readRow (p : Config.Params) : OpcodeRow := ⟨0x50000000#32, bitsFrom (p.countW + 15)⟩

/-- The six rows of R82. -/
def opcodeMap (p : Config.Params) : List OpcodeRow :=
  [beginRow, endRow, timeoutRow p, setSpeedRow, writeRow p, readRow p]

/-- Whether a command word is well formed (R84): some row of R82 covers it. -/
def commandWellFormed (p : Config.Params) (w : CommandWord) : Bool := (opcodeMap p).any (·.covers w)

/-! ## The assembler (30_encoding.md R91) -/

/-- "Each line assembles to one command word"; the two directives "encode to nothing"; NOTIMEOUT "expands to
`TIMEOUT 0`" (R91). -/
def AsmLine.expand : AsmLine → Option Instr
  | .beginLine => some .beginCmd
  | .endLine => some .endCmd
  | .timeoutLine ms => some (.timeoutCmd ms)
  | .noTimeoutLine => some (.timeoutCmd 0)
  | .setSpeedLine fast => some (.setSpeed (fast == 1))
  | .writeLine addr reg count => some (.write (BitVec.ofNat 7 addr) (BitVec.ofNat 8 reg) count)
  | .readLine addr reg count => some (.read (BitVec.ofNat 7 addr) (BitVec.ofNat 8 reg) count)
  | .bufLine _ => none
  | .waitLine => none

/-- Assembling a line: `none` is the assembly error of an operand out of range, `some none` a line that encodes to
nothing, `some (some w)` the line's word. -/
def AsmLine.assemble (p : Config.Params) (l : AsmLine) : Option (Option Encoded) :=
  if l.wellFormed p then some (l.expand.map (encode p)) else none

end Sys2Proof
end

