-- ==== Sys2Proof/Machine/State.lean ====
section
/-! DEFINITION. The machine's state as plain data (10_state.md), the moves of its four agents, the events it emits, and
the reasons a step can stop. -/

namespace Sys2Proof.Machine

/-! ## The sequencer position (10_state.md R23) -/

/-- SEQ, the transaction step. The unused values 10 to 15 have no constructor (U14). -/
inductive Seq where
  | idle
  | tStart
  | tAddrW
  | tReg
  | tWdata
  | tRstart
  | tAddrR
  | tRdata
  | tStop
  | tDone
deriving DecidableEq, Repr

/-- The outcome a primitive holds across LOCKUP and returns after it: E_TIMEOUT, or the status S (60_exceptions.md R247). -/
inductive Cause where
  | timedOut
  | status
deriving DecidableEq, Repr

/-- The sub-steps of the STOP nested inside P_NSTOP: "PH sub-steps repeated for the nested STOP" (R23, 42_phases.md R170). -/
inductive StopStep where
  | t0
  | issue
  | poll
  | clock
  | lock0
  | lock1
deriving DecidableEq, Repr

/-- PH, the step inside the current phase primitive. P_NSTOP carries its sub-step, P_LOCK0 and P_LOCK1 the held outcome
(log 13). The unused values 13 to 15 have no constructor (U14). -/
inductive Phase where
  | entry
  | dr
  | t0
  | issue
  | poll
  | clock
  | eval
  | nstop (sub : StopStep)
  | lock0 (cause : Cause)
  | lock1 (cause : Cause)
  | rdr
  | buf
  | bufw
deriving DecidableEq, Repr

/-- The encoding of SEQ (R23, D33). -/
def Seq.code : Seq → BitVec 4
  | .idle => 0#4
  | .tStart => 1#4
  | .tAddrW => 2#4
  | .tReg => 3#4
  | .tWdata => 4#4
  | .tRstart => 5#4
  | .tAddrR => 6#4
  | .tRdata => 7#4
  | .tStop => 8#4
  | .tDone => 9#4

/-- The encoding of PH (R23, D33). -/
def Phase.code : Phase → BitVec 4
  | .entry => 0#4
  | .dr => 1#4
  | .t0 => 2#4
  | .issue => 3#4
  | .poll => 4#4
  | .clock => 5#4
  | .eval => 6#4
  | .nstop _ => 7#4
  | .lock0 _ => 8#4
  | .lock1 _ => 9#4
  | .rdr => 10#4
  | .buf => 11#4
  | .bufw => 12#4

/-! ## The Bus Controller Interface (10_state.md R31 to R37) -/

/-- EVT, the in-flight bus event (R37). XFER of 30_encoding.md R86 is SEND, RECV_ACK or RECV_NACK (log 9). -/
inductive Evt where
  | none
  | start
  | send
  | recvAck
  | recvNack
  | stop
deriving DecidableEq, Repr

/-- The BCI's own mode (44_bus_controller.md R216): ADDRESS between a START and its address byte (log 10). -/
inductive Mode where
  | transmit
  | address
  | receive
deriving DecidableEq, Repr

/-- The BCI's registers and hidden state. CR is held by its fields; EN of CR is ON (R37). -/
structure Bci where
  int : Bool
  ea : Bool
  sta : Bool
  sto : Bool
  wc : Bool
  on : Bool
  ie : Bool
  sr : Byte
  dr : Byte
  br : Byte
  evt : Evt
  busHeld : Bool
  mode : Mode
  /-- BR and PS at the step that issued the event in flight, which set its clock (44_bus_controller.md R221). -/
  evtBr : Byte
  evtPs : Byte
deriving DecidableEq, Repr

/-- The status field of SR, `SR & SR_MASK` (R32, 30_encoding.md R87). -/
def Bci.status (b : Bci) (p : Config.Params) : Byte := b.sr &&& p.srMask

/-- The prescaler field of SR, `SR & SR_PS_MASK`, in place (R32). -/
def Bci.ps (b : Bci) (p : Config.Params) : Byte := b.sr &&& p.srPsMask

/-! ## Agents and events -/

/-- One step of one agent (00_scope.md R3). A move that brings a value from outside carries it. -/
inductive Move where
  /-- The engine takes its next step (20_memory.md R66). -/
  | engine
  /-- The BCI completes the START or XFER in flight, with status sigma and byte delta (44_bus_controller.md R213). -/
  | complete (sigma delta : Byte)
  /-- The BCI has executed the STOP in flight (R215). -/
  | stopDone
  /-- The Time Source ticks (R226). -/
  | tick
  /-- The host presents a command word at the port (30_encoding.md R80). -/
  | present (w : CommandWord)
  /-- The host reads byte `i` of BUF (20_memory.md R70). -/
  | hostRead (i : Nat)
  /-- The host writes byte `i` of BUF (R70). -/
  | hostWrite (i : Nat) (b : Byte)
  /-- A second writer writes a BCI register: not admitted (R71). -/
  | foreignWrite (r : Config.BciReg) (b : Byte)
deriving DecidableEq, Repr

/-- What the machine does that can be seen: the actions of 00_scope.md R9 and the DONE event of 10_state.md R30. -/
inductive Event where
  | crWrite (w : Byte)
  | crRead
  | srRead (v : Byte)
  | srPsWrite (p : Byte)
  | drWrite (b : Byte)
  | drRead (v : Byte)
  | brWrite (b : Byte)
  | puWrite (v : Bool)
  | now (v : Nat)
  | bufRead (i : Nat) (v : Byte)
  | bufWrite (i : Nat) (v : Byte)
  /-- DONE, "carrying the command and, for WRITE and READ, v" (R30). -/
  | done (cmd : Instr) (result : Option Byte)
deriving DecidableEq, Repr

/-! ## The state -/

/-- Everything the spec gives the machine (10_state.md), and four fields of the model's own (the last four). -/
structure State where
  /-- TIMEOUT, below 2^TIMEOUT_W (R20). -/
  timeout : Nat
  /-- SPEED (R21). -/
  speed : Bool
  /-- PU (R22). -/
  pu : Bool
  /-- SEQ (R23). -/
  seq : Seq
  /-- PH (R23). -/
  ph : Phase
  /-- OPR: 0 = WRITE, 1 = READ (R24). -/
  opr : Bool
  /-- ADR (R24). -/
  adr : SlaveAddr
  /-- REG (R24). -/
  reg : Byte
  /-- CNT, below 2^COUNT_W (R24). -/
  cnt : Nat
  /-- IDX, below 2^COUNT_W: "it does not wrap" (R25). -/
  idx : Nat
  /-- S, the status latch (R26). -/
  st : Byte
  /-- T0, below 2^CLOCK_W (R27). -/
  t0 : Nat
  /-- RV (R28). -/
  rv : Byte
  /-- RES (R29). -/
  res : Byte
  /-- T, the TIMEOUT sampled at P_POLL (42_phases.md R161). -/
  tSample : Nat
  /-- b, the byte `BufRead` gave (41_transactions.md R131). -/
  txByte : Byte
  /-- d, the byte `DRRead` gave (R132). -/
  rxByte : Byte
  /-- The BCI's registers and hidden state (R31 to R37). -/
  bci : Bci
  /-- NOW, the Time Source, below 2^CLOCK_W (R38). -/
  now : Nat
  /-- BUF, indexes below BUF_SIZE (R39), in canonical form (see `bufWf`). -/
  buf : List Host.Cell
  /-- The command port (30_encoding.md R80): the words presented and not yet accepted, oldest first. CMD_VALID is
  "not empty", CMD is the first (log 15). -/
  port : List CommandWord
  /-- MODEL: the moves to come, first first; when it is empty the engine moves (log 1). -/
  agenda : List Move
  /-- MODEL: the events emitted, newest first (log 17). -/
  trace : List Event
  /-- MODEL: how many draws have been made; indexes the free values (log 8). -/
  draws : Nat
  /-- MODEL: the parameters of this machine (00_scope.md R6); no step changes them (log 3). -/
  params : Config.Params
deriving DecidableEq, Repr

/-! ## Why a step stops -/

/-- Faults: there are none. "No behaviour is treated as `fault`" (93_implementation_defined.md section 1), and
"RK-I2CM raises no exception and takes no trap" (60_exceptions.md R240). -/
inductive Fault where
deriving DecidableEq, Repr

/-- The inputs and states the spec refuses (93_implementation_defined.md section 1). -/
inductive Refusal where
  /-- Raised by `exec` for an instruction with no meaning yet. None is left. Safe. -/
  | notModelled (mnemonic : String)
  /-- Raised by the engine's step when the presented word is ill formed (30_encoding.md R84, U13). Safe. -/
  | illFormedCommand
  /-- Raised by the engine's step at a pair (SEQ, PH) no rule gives an action (10_state.md R23, U14). Safe. -/
  | unusedPosition
  /-- Raised by a CR write of a word other than the seven (44_bus_controller.md R220, U15). Safe. -/
  | unspecifiedControlWord
  /-- Raised by a host access to BUF while READY = 0 (20_memory.md R70, U16). Safe. -/
  | hostBufAccessWhileBusy
  /-- Raised by a host access to an index BUF does not have, at or above BUF_SIZE (20_memory.md R60). Safe. -/
  | noSuchBufIndex
  /-- Raised by a second writer of the BCI registers (20_memory.md R71, U17). Safe. -/
  | secondBciWriter
deriving DecidableEq, Repr

/-! ## Reset (10_state.md R40, 70_reset_and_hazards.md R270) -/

/-- The BCI after power-on: CR, SR, DR and BR as the parameters say (by default 0x00, 0xF8, 0xFF, 0x00), EVT = NONE,
ON = 0, BUSHELD = 0 (R40, D28); ON is EN of CR. The mode and the two latches of the event clock have no reset value in
the spec: DESIGN CHOICE, logs 10 and 25. -/
def Bci.resetWith (p : Config.Params) : Bci where
  int := p.crReset.getLsbD p.crInt
  ea := p.crReset.getLsbD p.crEa
  sta := p.crReset.getLsbD p.crSta
  sto := p.crReset.getLsbD p.crSto
  wc := p.crReset.getLsbD p.crWc
  on := p.crReset.getLsbD p.crEn
  ie := p.crReset.getLsbD p.crIe
  sr := p.srReset
  dr := p.drReset
  br := p.brReset
  evt := .none
  busHeld := false
  mode := .transmit
  evtBr := 0x00#8
  evtPs := 0x00#8

/-- Reset of a machine built with parameters `p`. TIMEOUT, SPEED, PU, (SEQ, PH) and the BCI are the spec's; the
registers R40 leaves unspecified are 0, DESIGN CHOICE, logs 4, 5 and 6. -/
def State.resetWith (p : Config.Params) : State where
  timeout := 0
  speed := false
  pu := false
  seq := .idle
  ph := .entry
  opr := false
  adr := 0#7
  reg := 0#8
  cnt := 0
  idx := 0
  st := 0#8
  t0 := 0
  rv := 0#8
  res := 0#8
  tSample := 0
  txByte := 0#8
  rxByte := 0#8
  bci := Bci.resetWith p
  now := 0
  buf := []
  port := []
  agenda := []
  trace := []
  draws := 0
  params := p

/-- The machine right after reset, built with the default parameters (log 3). -/
def State.reset : State := State.resetWith Config.Params.default

end Sys2Proof.Machine
end

