-- ==== Sys2Proof/Machine/Ops.lean ====
section
/-! DEFINITION. The named operations over the state: BUF, the BCI registers, the Time Source, the actions of
00_scope.md R9, and entry to and return from recovery, the hardware's one trap analogue (60_exceptions.md R247). -/

namespace Sys2Proof.Machine

/-! ## BUF (20_memory.md R60) -/

/-- What an index of BUF reads as when no cell lists it. The spec gives no reset contents: DESIGN CHOICE, log 5. -/
def unlistedByte : Byte := 0x00#8

/-- Byte `i` of BUF. -/
def bufGet : List Host.Cell → Nat → Byte
  | [], _ => unlistedByte
  | (a, v) :: rest, i => if a = i then v else bufGet rest i

/-- BUF with byte `i` set to `b`, in canonical form. -/
def bufSet : List Host.Cell → Nat → Byte → List Host.Cell
  | [], i, b => if b = unlistedByte then [] else [(i, b)]
  | (a, v) :: rest, i, b =>
    if i < a then (if b = unlistedByte then (a, v) :: rest else (i, b) :: (a, v) :: rest)
    else if i = a then (if b = unlistedByte then rest else (i, b) :: rest)
    else (a, v) :: bufSet rest i b

/-- The canonical form from index `lo` up: indexes strictly rising and below `size`, no cell holding the unlisted byte. -/
def bufWfFrom (size : Nat) : Nat → List Host.Cell → Bool
  | _, [] => true
  | lo, (a, v) :: rest => lo ≤ a && a < size && v != unlistedByte && bufWfFrom size (a + 1) rest

/-- The canonical form of a buffer of `size` bytes: equal contents are equal lists. -/
def bufWf (size : Nat) (m : List Host.Cell) : Bool := bufWfFrom size 0 m

/-- BUF with each of its first `n` bytes drawn: "the model draws any byte for each" (41_transactions.md R135). -/
def bufDraw (draw : Nat) : Nat → List Host.Cell → List Host.Cell
  | 0, m => m
  | n + 1, m => bufSet (bufDraw draw n m) n (Config.freeBuf draw n)

/-! ## The BCI's registers (44_bus_controller.md) -/

namespace Bci

/-- A CR bit at its position, or nothing. -/
def crBit (v : Bool) (pos : BitPos) : Byte := if v then bit pos else 0#8

/-- CR as the byte its fields make (10_state.md R31); the reserved bit is always written 0. -/
def cr (b : Bci) (p : Config.Params) : Byte :=
  crBit b.int p.crInt ||| crBit b.ea p.crEa ||| crBit b.sta p.crSta ||| crBit b.sto p.crSto |||
    crBit b.wc p.crWc ||| crBit b.on p.crEn ||| crBit b.ie p.crIe

/-- The status field replaced, the rest of SR kept (R213, R218). -/
def withStatus (b : Bci) (p : Config.Params) (sigma : Byte) : Bci :=
  { b with sr := (b.sr &&& ~~~p.srMask) ||| (sigma &&& p.srMask) }

/-- `Disable()` (R218). INT and the status are draws (U4). CR is cleared with EN (40_lifecycle.md R112): IE too, WC not,
it is read-only (R220); the mode goes back to transmit (logs 10 and 22). -/
def disable (b : Bci) (p : Config.Params) (draw : Nat) : Bci :=
  { b.withStatus p (Config.freeStatus draw) with
    on := false, evt := .none, sto := false, busHeld := false, ea := false, sta := false, ie := false,
    int := Config.freeInt draw, mode := .transmit }

/-- The XFER event in the BCI's mode: send DR, or receive and answer with EA (R216, 10_state.md R37). -/
def xferEvt (b : Bci) (ea : Bool) : Evt :=
  if b.mode = .receive then (if ea then .recvAck else .recvNack) else .send

/-- `Decode(w)` for a word with EN = INT = 1 (30_encoding.md R86). STA = STO = 1 is refused before it gets here (U15). -/
def eventOf (b : Bci) (p : Config.Params) (w : Byte) : Evt :=
  match w.getLsbD p.crSta, w.getLsbD p.crSto with
  | true, true => .none
  | true, false => .start
  | false, true => .stop
  | false, false => b.xferEvt (w.getLsbD p.crEa)

/-- The effect of `CRWrite(w)` on the BCI (R211, R218, R219). BR and PS of this step set the event's clock (R221). -/
def crWrite (b : Bci) (p : Config.Params) (w : Byte) (draw : Nat) : Bci :=
  if w.getLsbD p.crEn then
    let e : Bci :=
      { b with on := true, ea := w.getLsbD p.crEa, sta := w.getLsbD p.crSta, ie := w.getLsbD p.crIe }
    if w.getLsbD p.crInt then
      { e with
        int := false, evt := b.eventOf p w, sto := if b.eventOf p w = .stop then true else b.sto,
        evtBr := b.br, evtPs := b.ps p }
    else e
  else b.disable p draw

/-- The effect of `DRWrite(v)`: taken if INT = 1; otherwise WC is set and DR is a draw of {old DR, v} (R217). -/
def drWrite (b : Bci) (v : Byte) (draw : Nat) : Bci :=
  if b.int then { b with dr := v }
  else { b with wc := true, dr := if Config.freeDrTaken draw then v else b.dr }

/-- The effect of `BRWrite(v)` (R222). -/
def brWrite (b : Bci) (v : Byte) : Bci := { b with br := v }

/-- The effect of `SRPsWrite(v)` (R222). -/
def srPsWrite (b : Bci) (p : Config.Params) (v : Byte) : Bci :=
  { b with sr := (b.sr &&& ~~~p.srPsMask) ||| (v &&& p.srPsMask) }

/-- Whether an event is a START or an XFER: the ones `Complete` ends (R213). -/
def completes : Evt → Bool
  | .none => false
  | .start => true
  | .send => true
  | .recvAck => true
  | .recvNack => true
  | .stop => false

/-- Whether the BCI may take its completion step (R213). -/
def canComplete (b : Bci) : Bool := b.on && completes b.evt

/-- Whether the BCI may take its STOP step (R215). -/
def canStop (b : Bci) : Bool := b.on && b.evt == .stop

/-- The mode after a completion: an ACKed address byte with direction bit 1 makes the BCI receive, any other makes it
transmit, and the mode then stays (R216; log 10). -/
def modeAfter (b : Bci) (p : Config.Params) (sigma : Byte) : Mode :=
  if b.evt = .start then .address
  else if b.mode = .address then
    (if b.dr.getLsbD 0 && (sigma &&& p.srMask) == p.stMrSlaAck then .receive else .transmit)
  else b.mode

/-- `Complete()` (R213), with the draws sigma and delta. -/
def complete (b : Bci) (p : Config.Params) (sigma delta : Byte) : Bci :=
  { b.withStatus p sigma with
    dr := if b.evt = .start then b.dr else delta
    busHeld := if b.evt = .start then true else b.busHeld
    mode := b.modeAfter p sigma
    evt := .none
    int := true }

/-- The divisor of the bus clock of the event in flight, `16 + 2 * BR * 4^PS` (10_state.md R35,
70_reset_and_hazards.md R290), with the BR and PS that govern it (R221). "No rule of the model depends on it". -/
def clockDivisor (b : Bci) : Nat := 16 + 2 * b.evtBr.toNat * 4 ^ b.evtPs.toNat

/-- `StopDone()` (R215): INT and SR are not changed. The mode ends with the STOP (R216). -/
def stopDone (b : Bci) : Bci := { b with sto := false, evt := .none, busHeld := false, mode := .transmit }

end Bci

/-! ## Events, draws and position -/

namespace State

/-- READY, "a 1-bit output equal to `(SEQ == IDLE)`" (10_state.md R30). -/
def ready (s : State) : Bool := s.seq == .idle

/-- Emit an event (log 17). -/
def emit (s : State) (e : Event) : State := { s with trace := e :: s.trace }

/-- Use up a draw (log 8). -/
def drawn (s : State) : State := { s with draws := s.draws + 1 }

/-- Move the position inside the primitive. -/
def atPhase (s : State) (ph : Phase) : State := { s with ph := ph }

/-- Move to a position. -/
def goto (s : State) (seq : Seq) (ph : Phase) : State := { s with seq := seq, ph := ph }

/-- Replace the BCI. -/
def withBci (s : State) (b : Bci) : State := { s with bci := b }

end State

/-! ## The actions of 00_scope.md R9 -/

/-- `CRWrite(w)` of one of the seven words (R9, R211). Only a disabling word makes a draw. -/
def busWrite (w : Byte) (s : State) : State :=
  let t := (s.withBci (s.bci.crWrite s.params w s.draws)).emit (.crWrite w)
  if w.getLsbD s.params.crEn then t else t.drawn

/-- `CRWrite(w)`: "CR words other than the seven" have no behaviour (44_bus_controller.md R220, U15). -/
def crWrite (w : Byte) (s : State) : Host.Outcome State Fault Refusal :=
  if (controlWords s.params).contains w then .next (busWrite w s) else .refused .unspecifiedControlWord

/-- `DRWrite(b)` (R9, R217). Only a write with INT = 0 makes a draw. -/
def drWrite (b : Byte) (s : State) : State :=
  let t := (s.withBci (s.bci.drWrite b s.draws)).emit (.drWrite b)
  if s.bci.int then t else t.drawn

/-- `BRWrite(b)` (R9, R222). -/
def brWrite (b : Byte) (s : State) : State := (s.withBci (s.bci.brWrite b)).emit (.brWrite b)

/-- `SRPsWrite(v)` (R9, R222). -/
def srPsWrite (v : Byte) (s : State) : State := (s.withBci (s.bci.srPsWrite s.params v)).emit (.srPsWrite v)

/-- `PUWrite(v)` (R9). -/
def puWrite (v : Bool) (s : State) : State := { s with pu := v }.emit (.puWrite v)

/-- `T0 <- Now()` (R9, 44_bus_controller.md R227). -/
def sampleT0 (s : State) : State := { s with t0 := s.now }.emit (.now s.now)

/-- `S <- SRRead() & SR_MASK` (R9, 10_state.md R26). -/
def latchStatus (s : State) : State := { s with st := s.bci.status s.params }.emit (.srRead s.bci.sr)

/-- `d <- DRRead()` (R9, 41_transactions.md R132). -/
def latchReceived (s : State) : State := { s with rxByte := s.bci.dr }.emit (.drRead s.bci.dr)

/-- `b <- BufRead(i)` (R9, R131). -/
def latchPayload (i : Nat) (s : State) : State :=
  { s with txByte := bufGet s.buf i }.emit (.bufRead i (bufGet s.buf i))

/-- `BufWrite(i, v)` (R9). -/
def bufWrite (i : Nat) (v : Byte) (s : State) : State := { s with buf := bufSet s.buf i v }.emit (.bufWrite i v)

/-! ## Recovery (43_recovery.md R200, 60_exceptions.md R247, R248) -/

/-- Entry to recovery: "saves no state"; control passes to LOCKUP's first action, the outcome held (R247). -/
def enterRecovery (cause : Cause) (s : State) : State := s.atPhase (.lock0 cause)

/-- What the primitive returns after LOCKUP: "E_TIMEOUT or the status that caused it" (R200). -/
def heldOutcome (cause : Cause) (s : State) : Byte :=
  match cause with
  | .timedOut => Config.eTimeout
  | .status => s.st

/-! ## Completion (40_lifecycle.md R110) -/

/-- `finish()` of a lifecycle command: "emits DONE and does not write RES" (R110). -/
def finishLifecycle (cmd : Instr) (s : State) : State := s.emit (.done cmd none)

/-- Carry on after an action that may have been refused. -/
def andThen (o : Host.Outcome State Fault Refusal) (f : State → State) : Host.Outcome State Fault Refusal :=
  match o with
  | .next s => .next (f s)
  | .fault r => .fault r
  | .refused r => .refused r

end Sys2Proof.Machine
end

