-- ==== Sys2Proof/Machine/Operands.lean ====
section
/-! DEFINITION. The operands of the commands and of the phase primitives: address bytes, byte counts, indexes, and which
primitive a transaction step calls with what (30_encoding.md R83, 41_transactions.md R131, R132). -/

namespace Sys2Proof.Machine

/-- `SLA_W = {ADR, 0}` (R83). -/
def slaW (a : SlaveAddr) : Byte := a ++ 0#1

/-- `SLA_R = {ADR, 1}` (R83). -/
def slaR (a : SlaveAddr) : Byte := a ++ 1#1

/-- `N <- (CNT == 0) ? 1 : CNT`, the n' of R132. -/
def recvCount (cnt : Nat) : Nat := if cnt = 0 then 1 else cnt

/-- The direction of an address phase (30_encoding.md R88). -/
inductive Dir where
  | w
  | r
deriving DecidableEq, Repr

/-- A call of a phase primitive with its arguments (42_phases.md R165 to R169). -/
inductive Primitive where
  | start
  | sendAddr (dir : Dir)
  | sendByte
  | recvByte (ack : Bool)
  | stop
deriving DecidableEq, Repr

/-- `IDX < N - 1`: a byte but the last, which requests ACK (R132). -/
def wantsAck (s : State) : Bool := s.idx < recvCount s.cnt - 1

/-- The primitive a transaction step calls (10_state.md R23, R131, R132). -/
def primitiveOf (s : State) : Option Primitive :=
  match s.seq with
  | .idle => none
  | .tStart => some .start
  | .tAddrW => some (.sendAddr .w)
  | .tReg => some .sendByte
  | .tWdata => some .sendByte
  | .tRstart => some .start
  | .tAddrR => some (.sendAddr .r)
  | .tRdata => some (.recvByte (wantsAck s))
  | .tStop => some .stop
  | .tDone => none

/-- The byte SEND_ADDR or SEND_BYTE sends at this step (R131, R132); steps that send nothing give 0. -/
def byteToSend (s : State) : Byte :=
  match s.seq with
  | .tAddrW => slaW s.adr
  | .tReg => s.reg
  | .tWdata => s.txByte
  | .tAddrR => slaR s.adr
  | .idle => 0#8
  | .tStart => 0#8
  | .tRstart => 0#8
  | .tRdata => 0#8
  | .tStop => 0#8
  | .tDone => 0#8

/-- Where READ stores the byte: IDX in its loop, N - 1 for the last (R132). -/
def recvIndex (s : State) : Nat := if wantsAck s then s.idx else recvCount s.cnt - 1

/-- The command in progress, as DONE carries it (10_state.md R24, R30). -/
def commandOf (s : State) : Instr :=
  if s.opr then .read s.adr s.reg s.cnt else .write s.adr s.reg s.cnt

/-- The control word of a primitive (30_encoding.md R85). -/
def issueWord (p : Config.Params) : Primitive → Byte
  | .start => wStartWord p
  | .sendAddr _ => wSendWord p
  | .sendByte => wSendWord p
  | .recvByte true => wRackWord p
  | .recvByte false => wRnackWord p
  | .stop => wStopWord p

/-- The control word the position writes, if it is one that writes CR: P_ISSUE, P_LOCK0, P_LOCK1 and the same sub-steps
of the nested STOP (10_state.md R23, 43_recovery.md R200, 42_phases.md R170). -/
def controlWordAt (s : State) : Option Byte :=
  match s.ph with
  | .issue => (primitiveOf s).map (issueWord s.params)
  | .lock0 _ => some wOffWord
  | .lock1 _ => some (wEnableWord s.params)
  | .nstop .issue => some (wStopWord s.params)
  | .nstop .lock0 => some wOffWord
  | .nstop .lock1 => some (wEnableWord s.params)
  | .nstop .t0 => none
  | .nstop .poll => none
  | .nstop .clock => none
  | .entry => none
  | .dr => none
  | .t0 => none
  | .poll => none
  | .clock => none
  | .eval => none
  | .rdr => none
  | .buf => none
  | .bufw => none

end Sys2Proof.Machine
end

