-- ==== Sys2Proof/Machine/Flags.lean ====
section
/-! DEFINITION. Every test the engine's decisions make: the completion and STOP-pending flags (10_state.md R36), the
timeout comparison (42_phases.md R162), the status classes (30_encoding.md R88) and the recovery arbitration
(43_recovery.md R201), and the mapping of results (41_transactions.md R134). -/

namespace Sys2Proof.Machine

/-- Bit `i` of `CRRead()`: INT, STO, and "its other bits are unspecified" (44_bus_controller.md R211, U6). -/
def crReadBit (s : State) (i : BitPos) : Bool :=
  if i = s.params.crInt then s.bci.int
  else if i = s.params.crSto then s.bci.sto
  else Config.freeCrBit s.draws i

/-- The flag a wait polls (42_phases.md R161). -/
inductive WaitKind where
  | int
  | sto
deriving DecidableEq, Repr

/-- Whether the poll sees the event complete (R161). -/
def waitComplete (kind : WaitKind) (s : State) : Bool :=
  match kind with
  | .int => crReadBit s s.params.crInt
  | .sto => !crReadBit s s.params.crSto

/-- `now -_CLOCK_W t0`: "the modular difference, so a wrap of the Time Source between T0 and now does not break the test"
(R162). -/
def elapsed (p : Config.Params) (now t0 : Nat) : Nat := (now + (2 ^ p.clockW - t0 % 2 ^ p.clockW)) % 2 ^ p.clockW

/-- `TimedOut(now, t0, T)` (R162), with the draw at the boundary tick under MAY. -/
def timedOut (p : Config.Params) (draw : Nat) (now t0 t : Nat) : Bool :=
  if t < elapsed p now t0 then true
  else if elapsed p now t0 = t then
    (match p.timeoutAtEqual with
     | .never => false
     | .may => Config.freeAtEqual draw)
  else false

/-- `AddrAck(S, dir)` (30_encoding.md R88). -/
def addrAck (p : Config.Params) (st : Byte) : Dir → Bool
  | .w => st == p.stMtSlaAck
  | .r => st == p.stMrSlaAck

/-- `AddrNack(S)` (R88), either direction. -/
def addrNack (p : Config.Params) (st : Byte) : Bool := st == p.stMtSlaNack || st == p.stMrSlaNack

/-- The follow-up to a completed event (43_recovery.md R201). -/
inductive FollowUp where
  /-- No bus action, return 0. -/
  | success
  /-- No bus action, return S. -/
  | asIs
  /-- Graceful STOP, return S. -/
  | graceful
  /-- LOCKUP, return S. -/
  | full
deriving DecidableEq, Repr

/-- The arbitration of R201 for a completed event with status `st`, the tests in the order of the primitives'
pseudocode (42_phases.md R165 to R168, 60_exceptions.md R246). STOP has no status to classify (R169). -/
def arbitrate (p : Config.Params) (st : Byte) : Primitive → FollowUp
  | .start =>
    if st = p.stStart ∨ st = p.stRepStart then .success else if st = p.stArbLost then .full else .asIs
  | .sendAddr dir =>
    if addrAck p st dir then .success else if addrNack p st then .graceful else .full
  | .sendByte =>
    if st = p.stMtDataAck then .success else if st = p.stMtDataNack then .graceful else .full
  | .recvByte _ => if st = p.stArbLost then .full else .asIs
  | .stop => .success

/-- The one status a receive step accepts (41_transactions.md R132). -/
def requestedStatus (p : Config.Params) (ack : Bool) : Byte := if ack then p.stMrDataAck else p.stMrDataNack

/-- `Map(rv, c) = c if rv == E_TIMEOUT, else rv` (R134). -/
def mapResult (rv c : Byte) : Byte := if rv = Config.eTimeout then c else rv

/-- The phase constants of R134's table, by SEQ. The initial START passes E_TIMEOUT through. -/
def phaseConstant (p : Config.Params) : Seq → Byte
  | .tStart => Config.eTimeout
  | .tAddrW => p.eAddrTx
  | .tReg => p.eTx
  | .tWdata => p.eTx
  | .tRstart => p.eRstart
  | .tAddrR => p.eAddrRx
  | .tRdata => p.eRx
  | .tStop => p.eStop
  | .idle => Config.eTimeout
  | .tDone => Config.eTimeout

end Sys2Proof.Machine
end

