-- ==== Sys2Proof/Machine/ControlWords.lean ====
section
/-! DEFINITION. The seven BCI control words: what the BCI does when the engine writes one to CR (30_encoding.md R85,
44_bus_controller.md R211, R218, R219). Where the sequencer goes next is the engine's step, not the word's. -/

namespace Sys2Proof.Machine

/-- W_START: request a START, or a repeated START while the bus is held (R212). -/
def execWStart (s : State) : Host.Outcome State Fault Refusal := crWrite (wStartWord s.params) s

/-- W_SEND: send DR (R216). -/
def execWSend (s : State) : Host.Outcome State Fault Refusal := crWrite (wSendWord s.params) s

/-- W_RACK: receive a byte and answer ACK (R216). -/
def execWRack (s : State) : Host.Outcome State Fault Refusal := crWrite (wRackWord s.params) s

/-- W_RNACK: receive a byte and answer NACK (R216); the same word as W_SEND (70_reset_and_hazards.md R287). -/
def execWRnack (s : State) : Host.Outcome State Fault Refusal := crWrite (wRnackWord s.params) s

/-- W_STOP: request a STOP (R211, R215). -/
def execWStop (s : State) : Host.Outcome State Fault Refusal := crWrite (wStopWord s.params) s

/-- W_ENABLE: enable with automatic-ACK, no event (R219). -/
def execWEnable (s : State) : Host.Outcome State Fault Refusal := crWrite (wEnableWord s.params) s

/-- W_OFF: disable (R218). -/
def execWOff (s : State) : Host.Outcome State Fault Refusal := crWrite wOffWord s

end Sys2Proof.Machine
end

