-- ==== Sys2Proof/Machine/Lifecycle.lean ====
section
/-! DEFINITION. The four lifecycle commands, each performed in one step (40_lifecycle.md R110 to R114). -/

namespace Sys2Proof.Machine

/-- BEGIN (R111). While READY = 0 it "is held: it is not accepted and has no effect" (R110). -/
def execBegin (s : State) : Host.Outcome State Fault Refusal :=
  if s.ready then
    let s1 := srPsWrite s.params.psBase (puWrite true s)
    let s2 := brWrite s.params.brSlow { s1 with speed := false }
    .next (finishLifecycle .beginCmd (busWrite (wEnableWord s.params) s2))
  else .next s

/-- END (R112). While READY = 0 it is held (R110). -/
def execEnd (s : State) : Host.Outcome State Fault Refusal :=
  if s.ready then .next (finishLifecycle .endCmd (busWrite wOffWord s)) else .next s

/-- TIMEOUT ms, accepted at any step (R110, R113). -/
def execTimeout (ms : Nat) (s : State) : Host.Outcome State Fault Refusal :=
  .next (finishLifecycle (.timeoutCmd ms) { s with timeout := ms })

/-- SETSPEED fast, accepted at any step (R110, R114). -/
def execSetSpeed (fast : Bool) (s : State) : Host.Outcome State Fault Refusal :=
  .next (finishLifecycle (.setSpeed fast)
    (brWrite (if fast then s.params.brFast else s.params.brSlow) { s with speed := fast }))

end Sys2Proof.Machine
end

