-- ==== Sys2Proof/Machine/Transfer.lean ====
section
/-! DEFINITION. Acceptance of WRITE and READ (40_lifecycle.md R110). The transaction then runs one action per engine
step: Sequencer.lean, Phases.lean and Engine.lean. -/

namespace Sys2Proof.Machine

/-- "On acceptance of WRITE or READ" (R110): the operands are latched and the sequencer starts. -/
def accept (isRead : Bool) (addr : SlaveAddr) (reg : Byte) (count : Nat) (s : State) : State :=
  { s with opr := isRead, adr := addr, reg := reg, cnt := count }.goto .tStart .entry

/-- WRITE addr, reg, count (41_transactions.md R131). While READY = 0 it is held (R110). -/
def execWrite (addr : SlaveAddr) (reg : Byte) (count : Nat) (s : State) : Host.Outcome State Fault Refusal :=
  if s.ready then .next (accept false addr reg count s) else .next s

/-- READ addr, reg, count (R132). While READY = 0 it is held (R110). -/
def execRead (addr : SlaveAddr) (reg : Byte) (count : Nat) (s : State) : Host.Outcome State Fault Refusal :=
  if s.ready then .next (accept true addr reg count s) else .next s

end Sys2Proof.Machine
end

