-- ==== Sys2Proof/Machine/Dispatch.lean ====
section
/-! DEFINITION. One arm per instruction. -/

namespace Sys2Proof.Machine

def exec (i : Instr) (s : State) : Host.Outcome State Fault Refusal :=
  match i with
  | .beginCmd => Sys2Proof.Machine.execBegin s
  | .endCmd => Sys2Proof.Machine.execEnd s
  | .timeoutCmd ms => Sys2Proof.Machine.execTimeout ms s
  | .setSpeed fast => Sys2Proof.Machine.execSetSpeed fast s
  | .write addr reg count => Sys2Proof.Machine.execWrite addr reg count s
  | .read addr reg count => Sys2Proof.Machine.execRead addr reg count s
  | .wStart => Sys2Proof.Machine.execWStart s
  | .wSend => Sys2Proof.Machine.execWSend s
  | .wRack => Sys2Proof.Machine.execWRack s
  | .wRnack => Sys2Proof.Machine.execWRnack s
  | .wStop => Sys2Proof.Machine.execWStop s
  | .wEnable => Sys2Proof.Machine.execWEnable s
  | .wOff => Sys2Proof.Machine.execWOff s

end Sys2Proof.Machine
end

