-- ==== Sys2Proof/Machine/Sequencer.lean ====
section
/-! DEFINITION. The transaction sequencer: what follows the return of a primitive, and the end of a transaction
(41_transactions.md R130 to R135). These are decisions, the mapping of RV included: "No bus action is performed by a
decision; all decisions follow the action of their step", so they happen in the step of the action before them
(20_memory.md R66). -/

namespace Sys2Proof.Machine

/-- The first step of the primitive a transaction step calls (42_phases.md R160, 41_transactions.md R131). -/
def firstPhase : Seq → Phase
  | .idle => .entry
  | .tStart => .t0
  | .tAddrW => .dr
  | .tReg => .dr
  | .tWdata => .buf
  | .tRstart => .t0
  | .tAddrR => .dr
  | .tRdata => .t0
  | .tStop => .t0
  | .tDone => .entry

/-- Go on to a transaction step: P_ENTRY's choice of the primitive is a decision too (10_state.md R23; log 11). -/
def enterStep (s : State) (q : Seq) : State := s.goto q (firstPhase q)

/-- The bytes of BUF a finishing transaction leaves unspecified: those of a READ that failed (R135). -/
def bytesDrawn (s : State) (v : Byte) : Nat := if s.opr && v != 0#8 then recvCount s.cnt else 0

/-- `finish(v)` of WRITE or READ: `RES <- v`; emit DONE carrying v; back to IDLE (40_lifecycle.md R110). A failed READ
leaves its bytes of BUF to draws (R135). -/
def finishTransaction (v : Byte) (s : State) : State :=
  { s with
    res := v
    buf := bufDraw s.draws (bytesDrawn s v) s.buf
    draws := if bytesDrawn s v = 0 then s.draws else s.draws + 1 }.goto .idle .entry
  |>.emit (.done (commandOf s) (some v))

/-- The call in progress ends the transaction: T_DONE's finish with RV, mapped with this call's phase constant (R134). -/
def endTransaction (s : State) : State := finishTransaction (mapResult s.rv (phaseConstant s.params s.seq)) s

/-- `while IDX < CNT` of WRITE (R131): another payload byte, or the final STOP. -/
def payloadLoop (s : State) : State := enterStep s (if s.idx < s.cnt then .tWdata else .tStop)

/-- What the sequencer does after a primitive that returned 0 (R130, R131, R132). -/
def continueAfter (s : State) : State :=
  match s.seq with
  | .tStart => enterStep s .tAddrW
  | .tAddrW => enterStep s .tReg
  | .tReg => if s.opr then enterStep s .tRstart else payloadLoop { s with idx := 0 }
  | .tWdata => payloadLoop { s with idx := s.idx + 1 }
  | .tRstart => enterStep s .tAddrR
  | .tAddrR => enterStep { s with idx := 0 } .tRdata
  | .tRdata => endTransaction s
  | .tStop => endTransaction s
  | .idle => s
  | .tDone => s

/-- What READ does with the value of RECV_BYTE: "It accepts only the one status it requested" (R132). -/
def afterReceive (s : State) : State :=
  if s.rv = Config.eTimeout then endTransaction s
  else if s.rv = requestedStatus s.params (wantsAck s) then s.atPhase .rdr
  else endTransaction s

/-- A primitive returns `v` into RV, and the sequencer goes on: abort-on-nonzero, but for READ's own test of a receive
(R130, R132). -/
def returnWith (v : Byte) (s : State) : State :=
  let t := { s with rv := v }
  if s.seq = .tRdata then afterReceive t
  else if v = 0#8 then continueAfter t
  else endTransaction t

/-- After a received byte is stored: the next byte of the loop, or the final STOP (R132). -/
def afterStore (s : State) : State :=
  if wantsAck s then enterStep { s with idx := s.idx + 1 } .tRdata else enterStep s .tStop

end Sys2Proof.Machine
end

