-- ==== Sys2Proof/Machine/Phases.lean ====
section
/-! DEFINITION. The steps inside a phase primitive but for those that write CR: the poll, the clock test, the status
evaluation and the byte moves (42_phases.md R160 to R170). -/

namespace Sys2Proof.Machine

/-- P_BUF: `b <- BufRead(IDX)` (41_transactions.md R131). -/
def stepBuf (s : State) : State := (latchPayload s.idx s).atPhase .dr

/-- P_DR: `DRWrite` of the byte to send (R166, R167). -/
def stepDr (s : State) : State := (drWrite (byteToSend s) s).atPhase .t0

/-- P_T0: `T0 <- Now()` (R163). -/
def stepT0 (s : State) : State := (sampleT0 s).atPhase .issue

/-- P_ENTRY: "choose the next primitive from SEQ (no action)" (10_state.md R23). IDLE waits for a command
(70_reset_and_hazards.md R271). T_START has it as the position acceptance leaves (40_lifecycle.md R110): the engine's
next step is START's first action. T_DONE finishes with the result in RV. No other step rests here (log 11). -/
def stepEntry (s : State) : State :=
  match s.seq with
  | .idle => s
  | .tStart => stepT0 s
  | .tDone => finishTransaction s.rv s
  | .tAddrW => s
  | .tReg => s
  | .tWdata => s
  | .tRstart => s
  | .tAddrR => s
  | .tRdata => s
  | .tStop => s

/-- The poll's action: `CRRead()`, with TIMEOUT sampled in the same step (R161). -/
def pollAction (s : State) : State := { s with tSample := s.timeout }.emit .crRead

/-- P_POLL of a primitive: flag first; a clock read only if it is clear and a timeout is configured (R161). STOP returns
0 at once, the others go on to P_EVAL (R160, R169). -/
def stepPoll (s : State) : State :=
  if s.seq = .tStop then
    if waitComplete .sto s then returnWith 0#8 (pollAction s)
    else if s.timeout = 0 then pollAction s
    else (pollAction s).atPhase .clock
  else
    if waitComplete .int s then (pollAction s).atPhase .eval
    else if s.timeout = 0 then pollAction s
    else (pollAction s).atPhase .clock

/-- Whether this P_CLOCK step finds the wait timed out (R161, R162), with the T of the same iteration's P_POLL. -/
def clockExpired (s : State) : Bool := timedOut s.params s.draws s.now s.t0 s.tSample

/-- The clock action: `Now()` (R161). Each step has its own draw for the boundary tick (R162). -/
def clockAction (s : State) : State := (s.emit (.now s.now)).drawn

/-- P_CLOCK of a primitive: on expiry LOCKUP, otherwise back to P_POLL (R161). -/
def stepClock (s : State) : State :=
  if clockExpired s then enterRecovery .timedOut (clockAction s) else (clockAction s).atPhase .poll

/-- P_EVAL: `S <- SRRead() & SR_MASK`, then the follow-up of 43_recovery.md R201. -/
def stepEval (s : State) : State :=
  let t := latchStatus s
  match primitiveOf s with
  | none => t
  | some prim =>
    match arbitrate s.params t.st prim with
    | .success => returnWith 0#8 t
    | .asIs => returnWith t.st t
    | .graceful => t.atPhase (.nstop .t0)
    | .full => enterRecovery .status t

/-- P_RDR: `d <- DRRead()` (41_transactions.md R132). -/
def stepRdr (s : State) : State := (latchReceived s).atPhase .bufw

/-- P_BUFW: `BufWrite` of d, then READ's loop (R132). -/
def stepBufw (s : State) : State := afterStore (bufWrite (recvIndex s) s.rxByte s)

/-! The nested graceful STOP, GSTOP (R170): STOP's own steps, its result discarded, the NACK status returned. -/

/-- `T0 <- Now()` of the nested STOP. -/
def stepNestedT0 (s : State) : State := (sampleT0 s).atPhase (.nstop .issue)

/-- The nested STOP's poll of STO. -/
def stepNestedPoll (s : State) : State :=
  if waitComplete .sto s then returnWith s.st (pollAction s)
  else if s.timeout = 0 then pollAction s
  else (pollAction s).atPhase (.nstop .clock)

/-- The nested STOP's clock test; on expiry it runs its own LOCKUP. -/
def stepNestedClock (s : State) : State :=
  if clockExpired s then (clockAction s).atPhase (.nstop .lock0) else (clockAction s).atPhase (.nstop .poll)

/-- Where the engine goes after the CR write of its position (R160, R161, R170, 43_recovery.md R200). -/
def afterControlWord (s : State) : State :=
  match s.ph with
  | .issue => s.atPhase .poll
  | .lock0 cause => s.atPhase (.lock1 cause)
  | .lock1 cause => returnWith (heldOutcome cause s) s
  | .nstop .issue => s.atPhase (.nstop .poll)
  | .nstop .lock0 => s.atPhase (.nstop .lock1)
  | .nstop .lock1 => returnWith s.st s
  | .nstop .t0 => s
  | .nstop .poll => s
  | .nstop .clock => s
  | .entry => s
  | .dr => s
  | .t0 => s
  | .poll => s
  | .clock => s
  | .eval => s
  | .rdr => s
  | .buf => s
  | .bufw => s

/-- The step of a position that writes no control word. -/
def plainStep (s : State) : State :=
  match s.ph with
  | .entry => stepEntry s
  | .buf => stepBuf s
  | .dr => stepDr s
  | .t0 => stepT0 s
  | .poll => stepPoll s
  | .clock => stepClock s
  | .eval => stepEval s
  | .rdr => stepRdr s
  | .bufw => stepBufw s
  | .nstop .t0 => stepNestedT0 s
  | .nstop .poll => stepNestedPoll s
  | .nstop .clock => stepNestedClock s
  | .nstop .issue => s
  | .nstop .lock0 => s
  | .nstop .lock1 => s
  | .issue => s
  | .lock0 _ => s
  | .lock1 _ => s

end Sys2Proof.Machine
end

