-- ==== Sys2Proof/Machine/Engine.lean ====
section
/-! DEFINITION. The engine's step: accept the presented command, or take the next action of the transaction
(40_lifecycle.md R110, 20_memory.md R66). -/

namespace Sys2Proof.Machine

/-- The phases of START and RECV_BYTE that both have (42_phases.md R165, R168). -/
def waitPhases : List Phase :=
  [.t0, .issue, .poll, .clock, .eval, .lock0 .timedOut, .lock1 .timedOut, .lock0 .status, .lock1 .status]

/-- The positions the pseudocode reaches (10_state.md R23): for each transaction step, the phases of its primitive.
P_ENTRY is where acceptance, and T_DONE, rest (log 11). -/
def positionUsed : Seq → Phase → Bool
  | .idle, ph => ph == .entry
  | .tStart, ph => (.entry :: waitPhases).contains ph
  | .tAddrW, ph => !([.entry, .rdr, .bufw, .buf].contains ph)
  | .tReg, ph => !([.entry, .rdr, .bufw, .buf].contains ph)
  | .tWdata, ph => !([.entry, .rdr, .bufw].contains ph)
  | .tRstart, ph => waitPhases.contains ph
  | .tAddrR, ph => !([.entry, .rdr, .bufw, .buf].contains ph)
  | .tRdata, ph => (.rdr :: .bufw :: waitPhases).contains ph
  | .tStop, ph => [.t0, .issue, .poll, .clock, .lock0 .timedOut, .lock1 .timedOut].contains ph
  | .tDone, ph => ph == .entry

/-- The next action of the engine. A position that writes CR runs the control word its ROM holds there, decoded in its
direction (30_encoding.md R85, 70_reset_and_hazards.md R287); "a model refuses a state holding" an unused position (R23). -/
def engineAction (s : State) : Host.Outcome State Fault Refusal :=
  if positionUsed s.seq s.ph then
    match controlWordAt s with
    | none => .next (plainStep s)
    | some w =>
      match decodeControl s.params (s.seq == .tRdata) w with
      | .ok i => andThen (exec i s) afterControlWord
      | .error _ => .refused .unspecifiedControlWord
  else .refused .unusedPosition

/-- Whether a command is accepted now (R110): TIMEOUT and SETSPEED at any step, the others while READY = 1. -/
def accepts (i : Instr) (s : State) : Bool :=
  match i with
  | .timeoutCmd _ => true
  | .setSpeed _ => true
  | .beginCmd => s.ready
  | .endCmd => s.ready
  | .write _ _ _ => s.ready
  | .read _ _ _ => s.ready
  | .wStart => false
  | .wSend => false
  | .wRack => false
  | .wRnack => false
  | .wStop => false
  | .wEnable => false
  | .wOff => false

/-- The engine's step. A presented command that can be accepted is; one that cannot "is held: it is not accepted and has
no effect", and the transaction goes on (R110). An ill-formed word is refused (30_encoding.md R84). -/
def engineStep (s : State) : Host.Outcome State Fault Refusal :=
  match s.port with
  | [] => engineAction s
  | w :: rest =>
    match decodeCommand s.params w with
    | .error _ => .refused .illFormedCommand
    | .ok i => if accepts i s then exec i { s with port := rest } else engineAction s

end Sys2Proof.Machine
end

