-- ==== Sys2Proof/Machine/Agents.lean ====
section
/-! DEFINITION. The steps of the other agents: the BCI's completions, the Time Source's tick, the host's accesses
(44_bus_controller.md R213, R215, R226; 20_memory.md R70), and one step of any agent. -/

namespace Sys2Proof.Machine

/-- `Complete()`, "enabled while EVT in {START, XFER} and ON = 1" (R213); a step that is not enabled is not taken (log 19). -/
def bciComplete (sigma delta : Byte) (s : State) : State :=
  if s.bci.canComplete then s.withBci (s.bci.complete s.params sigma delta) else s

/-- `StopDone()`, "enabled while EVT = STOP and ON = 1" (R215). -/
def bciStopDone (s : State) : State := if s.bci.canStop then s.withBci s.bci.stopDone else s

/-- `Tick(): NOW <- NOW +_CLOCK_W 1` (R226). -/
def tick (s : State) : State := { s with now := (s.now + 1) % 2 ^ s.params.clockW }

/-- The host presents a command word, behind those not yet accepted (40_lifecycle.md R110; log 15). -/
def present (w : CommandWord) (s : State) : State := { s with port := s.port ++ [w] }

/-- A host access to byte `i` of BUF with effect `f`: only while READY = 1, "not admitted" otherwise (R70), and only of
a byte BUF has (R60; log 20). -/
def hostAccess (i : Nat) (f : State → State) (s : State) : Host.Outcome State Fault Refusal :=
  if s.ready then (if i < s.params.bufSize then .next (f s) else .refused .noSuchBufIndex)
  else .refused .hostBufAccessWhileBusy

/-- A host read of BUF has no effect on the machine (R70). -/
def hostRead (i : Nat) (s : State) : Host.Outcome State Fault Refusal := hostAccess i (fun t => t) s

/-- A host write of BUF (R70). -/
def hostWrite (i : Nat) (b : Byte) (s : State) : Host.Outcome State Fault Refusal :=
  hostAccess i (fun t => { t with buf := bufSet t.buf i b }) s

/-- One step of one agent. -/
def stepMove (m : Move) (s : State) : Host.Outcome State Fault Refusal :=
  match m with
  | .engine => engineStep s
  | .complete sigma delta => .next (bciComplete sigma delta s)
  | .stopDone => .next (bciStopDone s)
  | .tick => .next (tick s)
  | .present w => .next (present w s)
  | .hostRead i => hostRead i s
  | .hostWrite i b => hostWrite i b s
  | .foreignWrite _ _ => .refused .secondBciWriter

/-- The host's `.buf` writes from index `i` on (30_encoding.md R91). -/
def bufMoves : Nat → List Nat → List Move
  | _, [] => []
  | i, b :: rest => .hostWrite i (BitVec.ofNat 8 b) :: bufMoves (i + 1) rest

/-- The host's moves for an assembly line: present its word, or load BUF; `.wait` presents nothing (R91). `none` is an
assembly error. -/
def lineMoves (p : Config.Params) (l : AsmLine) : Option (List Move) :=
  match l, l.assemble p with
  | _, none => none
  | .bufLine bytes, some _ => some (bufMoves 0 bytes)
  | _, some (some (.command w)) => some [.present w]
  | _, some (some (.control _)) => some []
  | _, some none => some []

/-- Which agent moves next, and the state with that move taken from the agenda: the engine when it is empty (log 1). -/
def nextMove (s : State) : Move × State :=
  match s.agenda with
  | [] => (.engine, s)
  | m :: rest => (m, { s with agenda := rest })

/-- The position at which the engine writes a given control word, for `withFetchWord`: the initial START, the first
SEND_ADDR, an ACKed RECV_BYTE (CNT = 2, IDX = 0), the final STOP, the two words of a LOCKUP. W_RNACK is W_SEND (R287). -/
def positionFor (w : Byte) (s : State) : State :=
  if w = wStartWord s.params then { s with seq := .tStart, ph := .issue }
  else if w = wRackWord s.params then { s with seq := .tRdata, ph := .issue, cnt := 2, idx := 0 }
  else if w = wSendWord s.params then { s with seq := .tAddrW, ph := .issue }
  else if w = wStopWord s.params then { s with seq := .tStop, ph := .issue }
  else if w = wEnableWord s.params then { s with seq := .tStart, ph := .lock1 .timedOut }
  else if w = wOffWord then { s with seq := .tStart, ph := .lock0 .timedOut }
  else s

/-- A word placed where the engine's next step runs it: a command at the port of an idle engine, a control word at the
position that writes it (log 18). -/
def placeWord (nbits w : Nat) (s : State) : State :=
  if nbits ≤ 8 then positionFor (BitVec.ofNat 8 w) { s with agenda := [], port := [] }
  else { s with agenda := [], port := [BitVec.ofNat 32 w], seq := .idle, ph := .entry }

end Sys2Proof.Machine
end

