-- ==== Sys2Proof/Machine/Premises.lean ====
section
/-! DEFINITION. The named premises a claim may take about the other agents (44_bus_controller.md R223 to R226,
70_reset_and_hazards.md R273, R281), the reference slave MOCK(A) (R224) and runs under a schedule. None is part of the
machine: `step` uses nothing of this file. -/

namespace Sys2Proof.Machine

/-! ## Runs -/

/-- The run of a list of moves, from first to last. -/
def runMoves : List Move → State → Host.Outcome State Fault Refusal
  | [], s => .next s
  | m :: rest, s =>
    match stepMove m s with
    | .next t => runMoves rest t
    | .fault r => .fault r
    | .refused r => .refused r

/-- `n` steps of the machine. -/
def runSteps : Nat → State → Host.Outcome State Fault Refusal
  | 0, s => .next s
  | n + 1, s =>
    match step s with
    | .next t => runSteps n t
    | .fault r => .fault r
    | .refused r => .refused r

/-- The first `n` moves of an infinite schedule. -/
def prefixOf (sched : Nat → Move) : Nat → List Move
  | 0 => []
  | n + 1 => prefixOf sched n ++ [sched n]

/-- "Tick is weakly fair": it occurs infinitely often (R226). -/
def TickFair (sched : Nat → Move) : Prop := ∀ n, ∃ m, n ≤ m ∧ sched m = .tick

/-! ## BUS_LIVE (R225) -/

/-- The control words among some events, in their order (41_transactions.md R136). -/
def crWords : List Event → List Byte
  | [] => []
  | .crWrite w :: rest => w :: crWords rest
  | _ :: rest => crWords rest

/-- Whether a move is the completion of the event in flight, at a state where it takes place (R213, R215). -/
def completesEvent (m : Move) (s : State) : Bool :=
  match m with
  | .complete _ _ => s.bci.canComplete
  | .stopDone => s.bci.canStop
  | .engine => false
  | .tick => false
  | .present _ => false
  | .hostRead _ => false
  | .hostWrite _ _ => false
  | .foreignWrite _ _ => false

/-- BUS_LIVE: "every issued event is eventually completed" (R225). An event in flight after `n` moves is completed at some
later move, and no CR word is written before: a LOCKUP would discard the event, not complete it (R218). -/
def BusLive (sched : Nat → Move) (s : State) : Prop :=
  ∀ n t, runMoves (prefixOf sched n) s = .next t → t.bci.evt ≠ .none →
    ∃ k u, runMoves (prefixOf sched (n + k)) s = .next u ∧ crWords u.trace = crWords t.trace ∧
      completesEvent (sched (n + k)) u = true

/-! ## BCI_CONFORMS (R223) -/

/-- BUSERR and OTHER_ARB, the spec's default codes (R223). -/
def busErr : Byte := 0x00#8
def otherArb : List Byte := [0x68#8, 0x78#8, 0xB0#8]

/-- The statuses a conforming peripheral may report for the event in flight (the table of R223). -/
def allowedStatuses (p : Config.Params) (b : Bci) : List Byte :=
  match b.evt with
  | .none => []
  | .stop => []
  | .start => [if b.busHeld then p.stRepStart else p.stStart, p.stArbLost, busErr]
  | .recvAck => [p.stMrDataAck, p.stArbLost, busErr]
  | .recvNack => [p.stMrDataNack, p.stArbLost, busErr]
  | .send =>
    if b.mode = .address then
      (if b.dr.getLsbD 0 then [p.stMrSlaAck, p.stMrSlaNack, p.stArbLost, busErr] ++ otherArb
       else [p.stMtSlaAck, p.stMtSlaNack, p.stArbLost, busErr] ++ otherArb)
    else [p.stMtDataAck, p.stMtDataNack, p.stArbLost, busErr]

/-- The status a cooperative slave gives the event in flight (the last column of R223's table). -/
def expectedStatus (p : Config.Params) (b : Bci) : Byte :=
  match b.evt with
  | .none => busErr
  | .stop => busErr
  | .start => if b.busHeld then p.stRepStart else p.stStart
  | .recvAck => p.stMrDataAck
  | .recvNack => p.stMrDataNack
  | .send =>
    if b.mode = .address then (if b.dr.getLsbD 0 then p.stMrSlaAck else p.stMtSlaAck) else p.stMtDataAck

/-- BCI_CONFORMS for one completion: an allowed status, and "DR after a send is unchanged" (R223). -/
def conforms (p : Config.Params) (b : Bci) (sigma delta : Byte) : Bool :=
  (allowedStatuses p b).contains (sigma &&& p.srMask) && (b.evt != .send || delta == b.dr)

/-- BCI_CONFORMS for one move: only completions that take place are restricted. -/
def moveConforms (m : Move) (s : State) : Bool :=
  match m with
  | .complete sigma delta => !s.bci.canComplete || conforms s.params s.bci sigma delta
  | .engine => true
  | .stopDone => true
  | .tick => true
  | .present _ => true
  | .hostRead _ => true
  | .hostWrite _ _ => true
  | .foreignWrite _ _ => true

/-! ## NO_ZERO_STATUS and BEGUN -/

/-- NO_ZERO_STATUS for one move: "no completion draws sigma = 0" (70_reset_and_hazards.md R281). -/
def noZeroStatus (p : Config.Params) : Move → Bool
  | .complete sigma _ => sigma &&& p.srMask != 0#8
  | .engine => true
  | .stopDone => true
  | .tick => true
  | .present _ => true
  | .hostRead _ => true
  | .hostWrite _ _ => true
  | .foreignWrite _ _ => true

/-- Whether an event is the DONE of a BEGIN (`some true`) or of an END (`some false`). -/
def beginOrEnd : Event → Option Bool
  | .done .beginCmd _ => some true
  | .done .endCmd _ => some false
  | _ => none

/-- BEGUN: "a BEGIN has run since reset and no END has run since the last BEGIN" (R273), read from the DONE events. -/
def begun (s : State) : Bool := s.trace.findSome? beginOrEnd == some true

/-! ## The control words of a transaction (41_transactions.md R136) -/

/-- The sequence of a successful WRITE of `c` bytes (R136). -/
def writeSequence (p : Config.Params) (c : Nat) : List Byte :=
  [wStartWord p, wSendWord p, wSendWord p] ++ List.replicate c (wSendWord p) ++ [wStopWord p]

/-- The sequence of a successful READ of `n` bytes (R136). -/
def readSequence (p : Config.Params) (n : Nat) : List Byte :=
  [wStartWord p, wSendWord p, wSendWord p, wStartWord p, wSendWord p] ++ List.replicate (n - 1) (wRackWord p)
    ++ [wRnackWord p, wStopWord p]

/-! ## The reference slave MOCK(A) (R224) -/

/-- MOCK(A): the 7-bit address, the register file M, the pointer p, and whether the next data byte sets p. -/
structure Mock where
  addr : SlaveAddr
  mem : List Host.Cell
  ptr : Byte
  fresh : Bool
deriving DecidableEq, Repr

/-- The 7-bit address of an address byte. -/
def addressOf (b : Byte) : SlaveAddr := b.extractLsb' 1 7

/-- What MOCK(A) does with the XFER that sends an address byte: ACK its own address, NACK any other (R224). -/
def Mock.address (m : Mock) (p : Config.Params) (b : Bci) : Byte × Byte × Mock :=
  if addressOf b.dr = m.addr then
    (if b.dr.getLsbD 0 then (p.stMrSlaAck, b.dr, m) else (p.stMtSlaAck, b.dr, { m with fresh := true }))
  else (if b.dr.getLsbD 0 then p.stMrSlaNack else p.stMtSlaNack, b.dr, m)

/-- "The first data byte after SLA+W sets p. Each further data byte is stored" (R224). -/
def Mock.data (m : Mock) (p : Config.Params) (b : Bci) : Byte × Byte × Mock :=
  if m.fresh then (p.stMtDataAck, b.dr, { m with ptr := b.dr, fresh := false })
  else (p.stMtDataAck, b.dr, { m with mem := bufSet m.mem m.ptr.toNat b.dr, ptr := m.ptr + 1#8 })

/-- "Each received byte is `M[p]; p <- p + 1 (mod 256)`" (R224). -/
def Mock.drive (m : Mock) (st : Byte) : Byte × Byte × Mock :=
  (st, bufGet m.mem m.ptr.toNat, { m with ptr := m.ptr + 1#8 })

/-- MOCK(A)'s answer to the event in flight: status, byte, and the slave after it. -/
def Mock.respond (m : Mock) (p : Config.Params) (b : Bci) : Byte × Byte × Mock :=
  match b.evt with
  | .none => (busErr, b.dr, m)
  | .stop => (busErr, b.dr, m)
  | .start => (expectedStatus p b, b.dr, m)
  | .recvAck => m.drive p.stMrDataAck
  | .recvNack => m.drive p.stMrDataNack
  | .send => if b.mode = .address then m.address p b else m.data p b

/-- One round of a bus where "every event completes" (R224): the event in flight is completed by MOCK(A), then the engine
steps. DESIGN CHOICE (log 28): the completion comes right before the engine's next step, with no Tick and no host move
between; R213 enables it at any point after the issue, and R224 does not say when it comes. -/
def mockRound (m : Mock) (s : State) : Host.Outcome State Fault Refusal × Mock :=
  if s.bci.canComplete then
    (engineStep (bciComplete (m.respond s.params s.bci).1 (m.respond s.params s.bci).2.1 s), (m.respond s.params s.bci).2.2)
  else (engineStep (bciStopDone s), m)

/-- `n` rounds with MOCK(A), with no Tick and no host move in any (log 28). -/
def runMock : Nat → Mock → State → Host.Outcome State Fault Refusal × Mock
  | 0, m, s => (.next s, m)
  | n + 1, m, s =>
    match mockRound m s with
    | (.next t, m') => runMock n m' t
    | (.fault r, m') => (.fault r, m')
    | (.refused r, m') => (.refused r, m')

end Sys2Proof.Machine
end

