-- ==== Sys2Proof/Safety.lean ====
section
/-! DEFINITION. What a safe state is: the relations between fields of the state that hold at reset and that every step
keeps. -/

namespace Sys2Proof.Machine

/-- A result value: 0 or a masked status, E_TIMEOUT, or a phase-timeout constant (60_exceptions.md R241). -/
def resultSpace (p : Config.Params) (v : Byte) : Prop :=
  v &&& p.srMask = v ∨ v = Config.eTimeout ∨ v ∈ p.phaseConstants

/-- A primitive's return: 0 or a masked status, or E_TIMEOUT (R241). -/
def returnSpace (p : Config.Params) (v : Byte) : Prop := v &&& p.srMask = v ∨ v = Config.eTimeout

/-- The positions at which an event may be in flight: the waits, and the step that leaves one by LOCKUP (42_phases.md R164). -/
def waitingPhase : Phase → Bool
  | .poll => true
  | .clock => true
  | .lock0 _ => true
  | .nstop .poll => true
  | .nstop .clock => true
  | .nstop .lock0 => true
  | .nstop .t0 => false
  | .nstop .issue => false
  | .nstop .lock1 => false
  | .entry => false
  | .dr => false
  | .t0 => false
  | .issue => false
  | .eval => false
  | .lock1 _ => false
  | .rdr => false
  | .buf => false
  | .bufw => false

/-- Whether the primitive running is STOP, as the final STOP or nested (R169, R170). -/
def stopRunning (s : State) : Bool :=
  match s.ph with
  | .nstop _ => true
  | _ => s.seq == .tStop

/-- Whether an event ends a transaction: the DONE of a WRITE or READ (10_state.md R30). -/
def transactionDone : Event → Bool
  | .done _ (some _) => true
  | _ => false

/-- The three places a transaction waits: INT in START, SEND_ADDR, SEND_BYTE and RECV_BYTE, STO in STOP, STO in the
nested STOP (42_phases.md R164). `WaitsAt s kind clk` says that `s` is at the poll of one, what it polls, and the
position of its clock test. -/
inductive WaitsAt : State → WaitKind → Phase → Prop where
  | event {s : State} : s.ph = .poll → positionUsed s.seq .poll = true → s.seq ≠ .tStop → WaitsAt s .int .clock
  | stop {s : State} : s.ph = .poll → s.seq = .tStop → WaitsAt s .sto .clock
  | nested {s : State} : s.ph = .nstop .poll → positionUsed s.seq (.nstop .poll) = true →
      WaitsAt s .sto (.nstop .clock)

/-- Whether a command is presented that the engine may act on before its next action: none is, or the one presented is
held (40_lifecycle.md R110). -/
def noneAccepted (s : State) : Prop :=
  s.port = [] ∨ ∃ w rest i, s.port = w :: rest ∧ decodeCommand s.params w = .ok i ∧ accepts i s = false

/-- The invariant. -/
structure Inv (s : State) : Prop where
  /-- The parameters obey R7 (00_scope.md); no step changes them. -/
  paramsWf : s.params.wf = true
  /-- Every register with a parameter for its width is in range (10_state.md R20, R24, R25, R27, R38). -/
  timeoutRange : s.timeout < 2 ^ s.params.timeoutW ∧ s.tSample < 2 ^ s.params.timeoutW
  clockRange : s.now < 2 ^ s.params.clockW ∧ s.t0 < 2 ^ s.params.clockW
  countRange : s.cnt < 2 ^ s.params.countW ∧ s.idx < 2 ^ s.params.countW
  /-- BUF is in canonical form (20_memory.md R60). -/
  bufCanonical : bufWf s.params.bufSize s.buf = true
  /-- The position is one the pseudocode reaches (10_state.md R23). -/
  position : positionUsed s.seq s.ph = true
  /-- No step rests at T_DONE: the finish is a decision (20_memory.md R66). -/
  notDone : s.seq ≠ .tDone
  /-- S is masked (R26). -/
  statusMasked : s.st &&& s.params.srMask = s.st
  /-- RV is a return value (60_exceptions.md R241). -/
  rvSpace : returnSpace s.params s.rv
  /-- RES is a result value (R241). -/
  resSpace : resultSpace s.params s.res
  /-- IDX is in range while WRITE sends payload and while READ receives (10_state.md R25). -/
  idxPayload : s.seq = .tWdata → s.idx < s.cnt
  idxReceive : s.seq = .tRdata → s.idx < recvCount s.cnt
  /-- The steps of one command are not entered by the other (R23). -/
  writeSteps : s.seq = .tWdata → s.opr = false
  readSteps : s.seq = .tRstart ∨ s.seq = .tAddrR ∨ s.seq = .tRdata → s.opr = true
  /-- No event is in flight while the BCI is off (44_bus_controller.md R218). -/
  onForEvent : s.bci.evt ≠ .none → s.bci.on = true
  /-- An event is in flight only in a wait (42_phases.md R164). -/
  waitForEvent : s.bci.evt ≠ .none → waitingPhase s.ph = true
  /-- A completed event is no longer in flight (R213). -/
  intNoEvent : s.bci.int = true → s.bci.evt = .none
  /-- STO is set exactly while a STOP is in flight (R211, R215). -/
  stoStop : s.bci.sto = true ↔ s.bci.evt = .stop
  /-- A STOP is in flight only in STOP's own wait, and nothing else is in flight there (R169, R170). -/
  stopWait : s.bci.evt = .stop → stopRunning s = true
  onlyStop : stopRunning s = true → s.bci.evt = .none ∨ s.bci.evt = .stop
  /-- The status is evaluated only after the completion flag was seen (42_phases.md R160). -/
  evalInt : s.ph = .eval → s.bci.int = true
  /-- The peripheral's interrupt enable is never set (60_exceptions.md R243). -/
  ieClear : s.bci.ie = false

end Sys2Proof.Machine
end

