-- ==== Sys2Proof/Certificates/Slice0/Obligations.lean ====
section
/-! DEFINITION. The statements for the provers. The events of `trace` are the actions of 00_scope.md R9 and the DONE
events of R30 as the model records them (log 17); `draws` indexes the free values (log 8). A statement about
`engineAction` holds whatever command the port holds back; `AStepRunsTheDecodedInstruction` says when a step is that
action. `Params.wf` is 00_scope.md R7 with the constraints of log 27; numbers of words and codes are the defaults of R6. -/

open Sys2Proof Sys2Proof.Machine

/-! ## Reset and the invariant -/

/-- 10_state.md R40: every reset value the spec gives, for every choice of the parameters that obeys R7, and the default
reset values; 70_reset_and_hazards.md R271: reset starts no activity and runs no BEGIN, and the engine, idle, takes no
action until a command is accepted. The registers R40 leaves unspecified are not mentioned. -/
def Obligations.ResetLeavesTheSpecifiedState : Prop :=
  (∀ p : Config.Params, p.wf = true →
    (State.resetWith p).timeout = 0 ∧ (State.resetWith p).speed = false ∧ (State.resetWith p).pu = false ∧
    (State.resetWith p).seq = .idle ∧ (State.resetWith p).ph = .entry ∧ (State.resetWith p).ready = true ∧
    (State.resetWith p).bci.cr p = p.crReset ∧ (State.resetWith p).bci.sr = p.srReset ∧
    (State.resetWith p).bci.dr = p.drReset ∧ (State.resetWith p).bci.br = p.brReset ∧
    (State.resetWith p).bci.evt = .none ∧ (State.resetWith p).bci.on = false ∧
    (State.resetWith p).bci.busHeld = false ∧ step (State.resetWith p) = .next (State.resetWith p) ∧
    ∀ s : State, s.seq = .idle → s.ph = .entry → engineAction s = .next s) ∧
  State.reset.bci.cr Config.Params.default = 0x00#8 ∧ State.reset.bci.sr = 0xF8#8 ∧ State.reset.bci.dr = 0xFF#8 ∧
  State.reset.bci.br = 0x00#8

/-- The invariant `Inv` holds at reset, for every choice of the parameters that obeys R7. It rests on the model's reset
values of the registers the spec leaves unspecified (logs 4, 5, 6). -/
def Obligations.ResetMeetsTheInvariant : Prop := ∀ p : Config.Params, p.wf = true → Inv (State.resetWith p)

/-- Every step of every agent keeps `Inv`: the parameters obey R7, every register is in the range of its width, the position
stays one the pseudocode reaches, BUF stays canonical, RV, RES and S stay in their spaces, an event is in flight only in a
wait and only while the BCI is on, STO is set exactly while a STOP is in flight, nothing but a STOP is in flight in STOP's
wait, IDX stays in range, IE stays 0. -/
def Obligations.EveryStepKeepsTheInvariant : Prop := ∀ s t : State, Inv s → step s = .next t → Inv t

/-- A step never faults, and from a state that meets `Inv` it is refused only for an ill-formed command word, a host access
to BUF while busy or outside BUF (log 20) or a second writer: with none of these it answers a next state. Which words are
ill-formed is the model's choice for a COUNT_W other than 8 (log 12). -/
def Obligations.EngineIsNeverStuck : Prop :=
  ∀ s : State, Inv s → s.port.all (commandWellFormed s.params) = true →
    (∀ m rest, s.agenda = m :: rest →
      (∀ r b, m ≠ .foreignWrite r b) ∧
      ∀ i, (m = .hostRead i ∨ ∃ b, m = .hostWrite i b) → s.ready = true ∧ i < s.params.bufSize) →
    ∃ t, step s = .next t

/-! ## Encoding -/

/-- 30_encoding.md R81 to R85: decoding the word of a well-formed instruction gives it back, every operand at every value,
for every layout and every width the parameters allow. W_SEND and W_RNACK are one word, told apart by whether SEQ is T_RDATA
(70_reset_and_hazards.md R287). Format X for a COUNT_W other than 8 is the model's (log 12). -/
def Obligations.DecodingAnEncodedInstructionGivesItBack : Prop :=
  ∀ (p : Config.Params) (i : Instr), p.wf = true → i.wellFormed p = true → decode p i.isReceive (encode p i) = .ok i

/-- R82, R84: a command word decodes exactly when a row of the opcode map covers it, then exactly one row does, the
instruction is well formed, and the word is the one the encoder gives it: one word for each command. For a COUNT_W other
than 8 the rows of WRITE and READ lay format X out as the model chose (log 12); R81 and R82 fix it for 8 only. -/
def Obligations.CommandWordsDecodeExactlyWhenARowCovers : Prop :=
  ∀ (p : Config.Params) (w : CommandWord), p.wf = true →
    ((∃ i, decodeCommand p w = .ok i) ↔ commandWellFormed p w = true) ∧
    (commandWellFormed p w = true →
      ∃ r, r ∈ opcodeMap p ∧ r.covers w = true ∧ ∀ q ∈ opcodeMap p, q.covers w = true → q = r) ∧
    ∀ i, decodeCommand p w = .ok i → i.wellFormed p = true ∧ encode p i = .command w

/-- Words written out from 30_encoding.md R81, R82 and R85 and the vectors of 95_test_vectors.md 2.1; and R81's MS and
reserved field for a TIMEOUT_W of 20 and of 8. -/
def Obligations.WordsOfTheSpecDecode : Prop :=
  (∀ p, p = Config.Params.default →
    decodeCommand p 0x00000000#32 = .ok .beginCmd ∧ decodeCommand p 0x10000000#32 = .ok .endCmd ∧
    decodeCommand p 0x2000000A#32 = .ok (.timeoutCmd 10) ∧ decodeCommand p 0x30000001#32 = .ok (.setSpeed true) ∧
    decodeCommand p 0x40501002#32 = .ok (.write 0x50#7 0x10#8 2) ∧
    decodeCommand p 0x407FFFFF#32 = .ok (.write 0x7F#7 0xFF#8 255) ∧
    decodeCommand p 0x50501002#32 = .ok (.read 0x50#7 0x10#8 2) ∧
    decodeCommand p 0x60000000#32 = .error .reservedOpcode ∧ decodeCommand p 0x40800000#32 = .error .reservedBits ∧
    decodeControl p false 0xA4#8 = .ok .wStart ∧ decodeControl p true 0xC4#8 = .ok .wRack ∧
    decodeControl p true 0x84#8 = .ok .wRnack ∧ decodeControl p false 0x94#8 = .ok .wStop) ∧
  (∀ p, p = { Config.Params.default with timeoutW := 20 } →
    decodeCommand p 0x200A0005#32 = .ok (.timeoutCmd 0xA0005) ∧ decodeCommand p 0x20100000#32 = .error .reservedBits) ∧
  ∀ p, p = { Config.Params.default with timeoutW := 8 } →
    decodeCommand p 0x200000FF#32 = .ok (.timeoutCmd 255) ∧ decodeCommand p 0x20000100#32 = .error .reservedBits

/-- 30_encoding.md R85: the default values of the seven control words, that WC, the reserved bit and IE are 0 in each, that
W_RNACK and W_SEND are the same, and that no step of the machine writes any other word to CR. -/
def Obligations.OnlyTheSevenControlWordsAreWritten : Prop :=
  (∀ p, p = Config.Params.default →
    wStartWord p = 0xA4#8 ∧ wSendWord p = 0x84#8 ∧ wRackWord p = 0xC4#8 ∧ wRnackWord p = 0x84#8 ∧
    wStopWord p = 0x94#8 ∧ wEnableWord p = 0x44#8 ∧ wOffWord = 0x00#8) ∧
  ∀ s t : State, s.params.wf = true → step s = .next t →
    wRnackWord s.params = wSendWord s.params ∧
    ∃ new, t.trace = new ++ s.trace ∧
      ∀ w ∈ crWords new,
        w ∈ [wStartWord s.params, wSendWord s.params, wRackWord s.params, wRnackWord s.params, wStopWord s.params,
             wEnableWord s.params, wOffWord] ∧
        w.getLsbD s.params.crWc = false ∧ w.getLsbD s.params.crIe = false ∧ w &&& ~~~s.params.crNamed = 0#8

/-! ## The step and command acceptance -/

/-- 30_encoding.md R81, R84: a word with OP 0x6 to 0xF, or with a nonzero reserved bit of its format, is refused. For a
COUNT_W other than 8, which bits of format X are reserved is the model's choice (log 12). That the
word at the head of the queue is refused at the engine's turn, busy or not, and that a word behind a held one is not yet, is
the model's choice (log 15). -/
def Obligations.IllFormedCommandWordsAreRefused : Prop :=
  ∀ (s : State) (w : CommandWord) (rest : List CommandWord),
    (nextMove s).1 = .engine → s.port = w :: rest →
    (6 ≤ (w.extractLsb' 28 4).toNat ∨
     (w.extractLsb' 28 4).toNat ≤ 1 ∧ w.extractLsb' 0 28 ≠ 0 ∨
     w.extractLsb' 28 4 = 2#4 ∧ w.extractLsb' s.params.timeoutW (28 - s.params.timeoutW) ≠ 0 ∨
     w.extractLsb' 28 4 = 3#4 ∧ w.extractLsb' 1 27 ≠ 0 ∨
     (w.extractLsb' 28 4 = 4#4 ∨ w.extractLsb' 28 4 = 5#4) ∧
       w.extractLsb' (s.params.countW + 15) (13 - s.params.countW) ≠ 0) →
    step s = .refused .illFormedCommand

/-- A step runs the decoded instruction. At the engine's turn, a presented word that decodes to an instruction that is
accepted is executed, taken from the port (and its move from the agenda); with no command presented, or one that is held
(40_lifecycle.md R110), the step is the engine's next action; and at a position that writes CR that action is `exec` of the
control word's instruction, then the move to the next position. That an acceptable head of the queue is taken before the
transaction's next action is the model's choice (log 15). -/
def Obligations.AStepRunsTheDecodedInstruction : Prop :=
  ∀ s : State, (nextMove s).1 = .engine →
    (∀ w rest i, s.port = w :: rest → decodeCommand s.params w = .ok i → accepts i s = true →
      step s = exec i { (nextMove s).2 with port := rest }) ∧
    (noneAccepted s → step s = engineAction (nextMove s).2) ∧
    (∀ w i, noneAccepted s → positionUsed s.seq s.ph = true → controlWordAt s = some w →
      decodeControl s.params (s.seq == .tRdata) w = .ok i → step s = andThen (exec i (nextMove s).2) afterControlWord)

/-- R110, "While READY = 0 such a command is held: it is not accepted and has no effect": BEGIN, END, WRITE and READ are not
accepted while busy, and executing one changes nothing; TIMEOUT and SETSPEED are accepted in every state, and all four are
accepted while READY = 1. The case of `exec` for a held command is the model's (log 16). -/
def Obligations.BusyCommandsAreHeld : Prop :=
  ∀ (s : State) (i : Instr), i.isCommand = true →
    ((∃ ms, i = .timeoutCmd ms) ∨ (∃ f, i = .setSpeed f) → accepts i s = true) ∧
    (s.ready = true → accepts i s = true) ∧
    (s.ready = false → (∀ ms, i ≠ .timeoutCmd ms) → (∀ f, i ≠ .setSpeed f) →
      accepts i s = false ∧ exec i s = .next s)

/-- R110, 30_encoding.md R83: a WRITE or READ word presented to an idle engine latches OPR, ADR, REG and CNT, which are
CMD[22:16], CMD[15:8] and CMD[7:0] for COUNT_W = 8 (log 12), and goes to (T_START, P_ENTRY); nothing else changes. -/
def Obligations.AcceptanceLatchesTheCommandsFields : Prop :=
  ∀ (s : State) (w : CommandWord) (rest : List CommandWord),
    s.agenda = [] → s.port = w :: rest → s.ready = true →
    w.extractLsb' (s.params.countW + 15) (13 - s.params.countW) = 0 →
    (w.extractLsb' 28 4 = 0x4#4 ∨ w.extractLsb' 28 4 = 0x5#4) →
    step s = .next { s with
      port := rest, opr := w.extractLsb' 28 4 == 0x5#4, adr := w.extractLsb' (s.params.countW + 8) 7,
      reg := w.extractLsb' s.params.countW 8, cnt := (w.extractLsb' 0 s.params.countW).toNat,
      seq := .tStart, ph := .entry }

/-! ## Lifecycle commands -/

/-- 40_lifecycle.md R111, BEGIN: the word, the new values, everything the rule says it leaves alone (no bus event, a held bus
stays held), that it is idempotent, and the example, for presets that are R90's. -/
def Obligations.BeginInitialisesThePeripheral : Prop :=
  ∀ s : State, s.params.wf = true → s.ready = true →
    decodeCommand s.params 0x00000000#32 = .ok .beginCmd ∧ ∃ t, exec .beginCmd s = .next t ∧
    t.pu = true ∧ t.bci.ps s.params = s.params.psBase &&& s.params.srPsMask ∧ t.speed = false ∧
    t.bci.br = s.params.brSlow ∧
    t.bci.on = true ∧ t.bci.ea = true ∧ t.bci.sta = false ∧ t.bci.ie = false ∧
    t.bci.int = s.bci.int ∧ t.bci.sto = s.bci.sto ∧ t.bci.wc = s.bci.wc ∧ t.bci.evt = s.bci.evt ∧
    t.bci.status s.params = s.bci.status s.params ∧ t.bci.dr = s.bci.dr ∧ t.bci.busHeld = s.bci.busHeld ∧
    t.timeout = s.timeout ∧ t.res = s.res ∧ (∀ a, bufGet t.buf a = bufGet s.buf a) ∧
    t.trace = [.done .beginCmd none, .crWrite (wEnableWord s.params), .brWrite s.params.brSlow,
      .srPsWrite s.params.psBase, .puWrite true] ++ s.trace ∧
    (∃ u, exec .beginCmd t = .next u ∧ u = { t with trace := u.trace }) ∧
    (s.params.presetsDerived = true → s.params.fCpu = 16000000 → t.bci.br = 0x48#8)

/-- R112, END: the word; CR is written 0x00, so the BCI is off and has released the lines; PU, SPEED, BR, TIMEOUT, RES and BUF
stay, and so do DR, PS, NOW, the position, the datapath registers and the port. What a disable leaves in INT and the status
is R218's draw; WC, IE and the mode are the model's (logs 10, 22) and are not said here. -/
def Obligations.EndDisablesThePeripheral : Prop :=
  ∀ s : State, s.params.wf = true → s.ready = true →
    decodeCommand s.params 0x10000000#32 = .ok .endCmd ∧ ∃ t, exec .endCmd s = .next t ∧
    t.trace = [.done .endCmd none, .crWrite 0x00#8] ++ s.trace ∧
    t.bci.on = false ∧ t.bci.evt = .none ∧ t.bci.sto = false ∧ t.bci.busHeld = false ∧ t.bci.ea = false ∧
    t.bci.sta = false ∧ t.pu = s.pu ∧ t.speed = s.speed ∧ t.bci.br = s.bci.br ∧ t.timeout = s.timeout ∧
    t.res = s.res ∧ (∀ a, bufGet t.buf a = bufGet s.buf a) ∧ t.bci.dr = s.bci.dr ∧
    t.bci.ps s.params = s.bci.ps s.params ∧ t = { s with bci := t.bci, trace := t.trace, draws := t.draws }

/-- R113, TIMEOUT ms: the word; in every state, busy or not, TIMEOUT becomes ms and nothing else changes but the DONE event; the
next poll of a wait in progress samples ms, T0 stays, and if more than ms has already elapsed that iteration times out. -/
def Obligations.TimeoutCommandWritesTimeoutOnly : Prop :=
  ∀ (s : State) (ms : Nat), s.params.wf = true → ms < 2 ^ s.params.timeoutW →
    decodeCommand s.params (0x20000000#32 ||| BitVec.ofNat 32 ms) = .ok (.timeoutCmd ms) ∧
    exec (.timeoutCmd ms) s = .next { s with timeout := ms, trace := .done (.timeoutCmd ms) none :: s.trace } ∧
    ∀ t u kind clk, exec (.timeoutCmd ms) s = .next t → WaitsAt t kind clk →
      waitComplete kind t = false → engineAction t = .next u →
      u.tSample = ms ∧ u.t0 = s.t0 ∧ (ms = 0 → u.ph = t.ph) ∧ (ms ≠ 0 → u.ph = clk) ∧
      (ms ≠ 0 → s.t0 < 2 ^ s.params.clockW →
        ms < (s.now + 2 ^ s.params.clockW - s.t0) % 2 ^ s.params.clockW →
        ∃ v, engineAction u = .next v ∧ (v.ph = .lock0 .timedOut ∨ v.ph = .nstop .lock0))

/-- R114, SETSPEED fast: the word; in every state, busy or not, SPEED and BR are written and nothing else changes but the
events; the clock of an event in flight stays; and the example, for presets that are R90's. -/
def Obligations.SetSpeedWritesSpeedAndDividerOnly : Prop :=
  ∀ (s : State) (fast : Bool) (br : Byte), br = (if fast = true then s.params.brFast else s.params.brSlow) →
    decodeCommand s.params (0x30000000#32 ||| (if fast = true then 1#32 else 0#32)) = .ok (.setSpeed fast) ∧
    exec (.setSpeed fast) s = .next { s with
      speed := fast, bci := { s.bci with br := br },
      trace := [.done (.setSpeed fast) none, .brWrite br] ++ s.trace } ∧
    (s.params.presetsDerived = true → s.params.fCpu = 16000000 → fast = true → br = 0x0C#8)

/-- What the lifecycle commands leave unchanged, accepted or held: the position, every datapath register, RES, NOW, every
byte of BUF, the port, the agenda, the parameters, and of the BCI the fields each does not write. The mode after END is the
model's (log 10), and so is that END leaves WC (log 22) and the latches of an event's clock (log 25): 40_lifecycle.md R112
says only that the control register is cleared. -/
def Obligations.LifecycleCommandsFrame : Prop :=
  ∀ (s t : State) (i : Instr), s.params.wf = true →
    (i = .beginCmd ∨ i = .endCmd ∨ (∃ ms, i = .timeoutCmd ms) ∨ ∃ f, i = .setSpeed f) → exec i s = .next t →
    t = { s with timeout := t.timeout, speed := t.speed, pu := t.pu, bci := t.bci, trace := t.trace, draws := t.draws } ∧
    (∀ a, bufGet t.buf a = bufGet s.buf a) ∧
    ((∀ ms, i ≠ .timeoutCmd ms) → t.timeout = s.timeout) ∧
    (i ≠ .beginCmd → t.pu = s.pu) ∧
    (i ≠ .beginCmd → (∀ f, i ≠ .setSpeed f) → t.speed = s.speed ∧ t.bci.br = s.bci.br) ∧
    (i ≠ .beginCmd → t.bci.ps s.params = s.bci.ps s.params) ∧
    (i ≠ .endCmd → t.draws = s.draws ∧
      t.bci = { s.bci with ea := t.bci.ea, sta := t.bci.sta, on := t.bci.on, ie := t.bci.ie, sr := t.bci.sr, br := t.bci.br } ∧
      t.bci.status s.params = s.bci.status s.params) ∧
    (t.bci.dr = s.bci.dr ∧ t.bci.wc = s.bci.wc ∧ t.bci.evtBr = s.bci.evtBr ∧ t.bci.evtPs = s.bci.evtPs)

/-- 30_encoding.md R90: for an F_CPU that makes both presets lie in 0 to 255 the defaults of BR_SLOW and BR_FAST are its
formulas without loss; their values at 16 MHz; PS_BASE is 0. -/
def Obligations.DividerPresets : Prop :=
  ∀ hz : Nat, 16 ≤ hz / 400000 → (hz / 100000 - 16) / 2 ≤ 255 →
    (Config.Params.withClock hz).brSlow.toNat = (hz / 100000 - 16) / 2 ∧
    (Config.Params.withClock hz).brFast.toNat = (hz / 400000 - 16) / 2 ∧
    (hz = 16000000 → (Config.Params.withClock hz).brSlow = 0x48#8 ∧ (Config.Params.withClock hz).brFast = 0x0C#8) ∧
    (Config.Params.withClock hz).psBase = 0#8

/-- 10_state.md R20, R21, R22, R35: whatever the agent, a step changes TIMEOUT only by a TIMEOUT command, SPEED and BR only
by BEGIN or SETSPEED, PU and PS only by BEGIN; the parameters never change. -/
def Obligations.ConfigurationChangesOnlyByItsCommands : Prop :=
  ∀ s t : State, s.params.wf = true → step s = .next t →
    (t.timeout ≠ s.timeout → ∃ ms, t.timeout = ms ∧ t.trace = .done (.timeoutCmd ms) none :: s.trace) ∧
    (t.speed ≠ s.speed ∨ t.bci.br ≠ s.bci.br →
      t.trace.head? = some (.done .beginCmd none) ∨ ∃ f, t.trace.head? = some (.done (.setSpeed f) none)) ∧
    (t.pu ≠ s.pu ∨ t.bci.ps s.params ≠ s.bci.ps s.params → t.pu = true ∧ t.trace.head? = some (.done .beginCmd none)) ∧
    t.params = s.params

/-- 70_reset_and_hazards.md R273: BEGUN holds after BEGIN, not after END nor at reset, and no other step changes it. -/
def Obligations.BegunFollowsBeginAndEnd : Prop :=
  (∀ p, begun (State.resetWith p) = false) ∧
  (∀ s t : State, s.ready = true → exec .beginCmd s = .next t → begun t = true) ∧
  (∀ s t : State, s.ready = true → exec .endCmd s = .next t → begun t = false) ∧
  (∀ (s t : State) (i : Instr), i ≠ .beginCmd → i ≠ .endCmd → exec i s = .next t → begun t = begun s) ∧
  (∀ s t : State, engineAction s = .next t → begun t = begun s) ∧
  (∀ (s t : State) (m : Move), m ≠ .engine → stepMove m s = .next t → begun t = begun s)

/-! ## WRITE and READ: acceptance -/

/-- 40_lifecycle.md R110: WRITE and READ of an idle engine complete their acceptance, latch their operands, and leave every
other register, the BCI and every byte of BUF as they were. -/
def Obligations.WriteAndReadAreAccepted : Prop :=
  ∀ (s : State) (addr : SlaveAddr) (reg : Byte) (count : Nat), s.ready = true →
    exec (.write addr reg count) s = .next { s with
      opr := false, adr := addr, reg := reg, cnt := count, seq := .tStart, ph := .entry } ∧
    exec (.read addr reg count) s = .next { s with
      opr := true, adr := addr, reg := reg, cnt := count, seq := .tStart, ph := .entry }

/-! ## Control words -/

/-- 44_bus_controller.md R211, R221, 30_encoding.md R86: in every state W_START, W_SEND, W_RACK, W_RNACK and W_STOP complete;
each enables the BCI, clears INT, puts its event in flight with the BR and PS of this step (in latches of the model's own,
log 25), W_STOP sets STO, and nothing else changes. The name of the XFER event follows the BCI's mode (logs 9 and 10). -/
def Obligations.IssuingControlWordsStartTheirEvent : Prop :=
  ∀ s : State, s.params.wf = true →
    exec .wStart s = .next { s with
      bci := { s.bci with on := true, ea := false, sta := true, ie := false, int := false, evt := .start,
                          evtBr := s.bci.br, evtPs := s.bci.ps s.params }
      trace := .crWrite (wStartWord s.params) :: s.trace } ∧
    exec .wSend s = .next { s with
      bci := { s.bci with on := true, ea := false, sta := false, ie := false, int := false,
                          evt := if s.bci.mode = .receive then .recvNack else .send,
                          evtBr := s.bci.br, evtPs := s.bci.ps s.params }
      trace := .crWrite (wSendWord s.params) :: s.trace } ∧
    exec .wRack s = .next { s with
      bci := { s.bci with on := true, ea := true, sta := false, ie := false, int := false,
                          evt := if s.bci.mode = .receive then .recvAck else .send,
                          evtBr := s.bci.br, evtPs := s.bci.ps s.params }
      trace := .crWrite (wRackWord s.params) :: s.trace } ∧
    exec .wRnack s = .next { s with
      bci := { s.bci with on := true, ea := false, sta := false, ie := false, int := false,
                          evt := if s.bci.mode = .receive then .recvNack else .send,
                          evtBr := s.bci.br, evtPs := s.bci.ps s.params }
      trace := .crWrite (wRnackWord s.params) :: s.trace } ∧
    exec .wStop s = .next { s with
      bci := { s.bci with on := true, ea := false, sta := false, ie := false, int := false, evt := .stop, sto := true,
                          evtBr := s.bci.br, evtPs := s.bci.ps s.params }
      trace := .crWrite (wStopWord s.params) :: s.trace }

/-- 44_bus_controller.md R219: W_ENABLE completes in every state: ON and EA become 1, no event starts, and INT, STO, EVT, SR,
DR and BUSHELD are unchanged, as is everything else. STA becomes 0 with the word. -/
def Obligations.EnablingStartsNoEvent : Prop :=
  ∀ s : State, s.params.wf = true → exec .wEnable s = .next { s with
    bci := { s.bci with on := true, ea := true, sta := false, ie := false }
    trace := .crWrite (wEnableWord s.params) :: s.trace }

/-- 44_bus_controller.md R218: W_OFF completes in every state: ON, EVT, STO, BUSHELD, EA and STA are cleared, INT and the
status are draws (the free values of this draw, whatever they are). The frame: every engine register, NOW, every byte of
BUF, and DR, BR and PS of the BCI are unchanged; that WC (log 22) and the latches of the event clock (log 25) are too is the
model's choice. In every state with ON = 0 no completion step is enabled, and in every one that meets `Inv` EVT is NONE. -/
def Obligations.DisablingReleasesTheBus : Prop :=
  (∀ s : State, s.params.wf = true → ∃ t, exec .wOff s = .next t ∧
    t.bci.on = false ∧ t.bci.evt = .none ∧ t.bci.sto = false ∧ t.bci.busHeld = false ∧ t.bci.ea = false ∧
    t.bci.sta = false ∧ t.bci.int = Config.freeInt s.draws ∧
    t.bci.status s.params = Config.freeStatus s.draws &&& s.params.srMask ∧
    t = { s with bci := t.bci, trace := .crWrite 0x00#8 :: s.trace, draws := s.draws + 1 } ∧
    (∀ a, bufGet t.buf a = bufGet s.buf a) ∧
    t.bci.dr = s.bci.dr ∧ t.bci.br = s.bci.br ∧ t.bci.ps s.params = s.bci.ps s.params ∧ t.bci.wc = s.bci.wc ∧
    t.bci.evtBr = s.bci.evtBr ∧ t.bci.evtPs = s.bci.evtPs) ∧
  (∀ s : State, s.bci.on = false → s.bci.canComplete = false ∧ s.bci.canStop = false) ∧
  ∀ s : State, Inv s → s.bci.on = false → s.bci.evt = .none

/-! ## The BCI and the Time Source -/

/-- 44_bus_controller.md R217: a DR write with INT = 1 is taken; with INT = 0 it sets WC and leaves DR the old byte or the
new one; nothing else of the BCI or the engine changes; and only a P_DR step writes DR. -/
def Obligations.DataWritesWithoutTheFlagMayBeLost : Prop :=
  ∀ (s : State) (b : Byte),
    (s.bci.int = true → (drWrite b s).bci = { s.bci with dr := b }) ∧
    (s.bci.int = false →
      (drWrite b s).bci = { s.bci with wc := true, dr := (drWrite b s).bci.dr } ∧
      ((drWrite b s).bci.dr = b ∨ (drWrite b s).bci.dr = s.bci.dr)) ∧
    drWrite b s = { s with bci := (drWrite b s).bci, trace := .drWrite b :: s.trace, draws := (drWrite b s).draws } ∧
    ∀ t, step s = .next t → t.trace = .drWrite b :: s.trace → s.ph = .dr

/-- 44_bus_controller.md R213: the completion of a START or XFER, for every status sigma and byte delta. -/
def Obligations.CompletionSetsTheFlagAndTheStatus : Prop :=
  ∀ (s : State) (sigma delta : Byte), s.params.wf = true →
    s.bci.on = true → s.bci.evt ≠ .none → s.bci.evt ≠ .stop → sigma &&& s.params.srMask = sigma →
    ∃ t, stepMove (.complete sigma delta) s = .next t ∧
      t.bci.status s.params = sigma ∧ t.bci.int = true ∧ t.bci.evt = .none ∧
      (s.bci.evt = .start → t.bci.busHeld = true ∧ t.bci.dr = s.bci.dr) ∧
      (s.bci.evt ≠ .start → t.bci.dr = delta ∧ t.bci.busHeld = s.bci.busHeld) ∧
      t = { s with bci := { s.bci with sr := t.bci.sr, int := true, evt := .none, dr := t.bci.dr,
                                       busHeld := t.bci.busHeld, mode := t.bci.mode } } ∧
      t.bci.ps s.params = s.bci.ps s.params

/-- 44_bus_controller.md R215: the completion of a STOP. INT and SR are not changed. -/
def Obligations.StopCompletionReleasesTheBus : Prop :=
  ∀ s : State, s.bci.on = true → s.bci.evt = .stop →
    ∃ t, stepMove .stopDone s = .next t ∧ t.bci.sto = false ∧ t.bci.evt = .none ∧ t.bci.busHeld = false ∧
      t.bci.int = s.bci.int ∧ t.bci.sr = s.bci.sr ∧
      t = { s with bci := { s.bci with sto := false, evt := .none, busHeld := false, mode := t.bci.mode } }

/-- A move the spec does not enable, where the model's choice is what it answers: a completion outside
"EVT in {START, XFER} and ON = 1" (44_bus_controller.md R213), or a STOP's outside "EVT = STOP and ON = 1" (R215), changes
nothing (log 19); a host access to an index BUF does not have (20_memory.md R60) is refused (log 20). -/
def Obligations.MovesThatAreNotEnabledTakeNoEffect : Prop :=
  ∀ (s : State) (sigma delta : Byte),
    (s.bci.on = false ∨ s.bci.evt = .none ∨ s.bci.evt = .stop → stepMove (.complete sigma delta) s = .next s) ∧
    (s.bci.on = false ∨ s.bci.evt ≠ .stop → stepMove .stopDone s = .next s) ∧
    ∀ i b, s.ready = true → s.params.bufSize ≤ i →
      stepMove (.hostRead i) s = .refused .noSuchBufIndex ∧ stepMove (.hostWrite i b) s = .refused .noSuchBufIndex

/-- 44_bus_controller.md R216, in the model's representation of the mode (log 10): an address byte with direction bit 1 that
was ACKed makes the BCI receive, any other makes it transmit, and the mode stays through the XFERs after it. -/
def Obligations.ReceiveModeFollowsTheAddressByte : Prop :=
  ∀ (s t : State) (sigma delta : Byte), s.bci.canComplete = true →
    stepMove (.complete sigma delta) s = .next t →
    (s.bci.evt = .start → t.bci.mode = .address) ∧
    (s.bci.evt ≠ .start → s.bci.mode = .address →
      (t.bci.mode = .receive ↔ s.bci.dr.getLsbD 0 = true ∧ sigma &&& s.params.srMask = s.params.stMrSlaAck) ∧
      (t.bci.mode ≠ .receive → t.bci.mode = .transmit)) ∧
    (s.bci.evt ≠ .start → s.bci.mode ≠ .address → t.bci.mode = s.bci.mode)

/-- 44_bus_controller.md R227, R226: only a Tick changes NOW, by one modulo 2^CLOCK_W; every `Now()` returns the current NOW;
and the Time Source is read only by P_T0 and P_CLOCK steps (the nested STOP's included) and at (T_START, P_ENTRY), where
acceptance leaves the engine and START's first action is taken. R227 names P_T0 and P_CLOCK only: the further position is
the model's choice (log 11). -/
def Obligations.NowReadsTheTimeSource : Prop :=
  ∀ s t : State, step s = .next t →
    ((nextMove s).1 = .tick → t.now = (s.now + 1) % 2 ^ s.params.clockW) ∧
    ((nextMove s).1 ≠ .tick → t.now = s.now) ∧
    (∀ v, t.trace = .now v :: s.trace →
      v = s.now ∧ (s.ph = .t0 ∨ s.ph = .clock ∨ s.ph = .nstop .t0 ∨ s.ph = .nstop .clock ∨
        (s.seq = .tStart ∧ s.ph = .entry))) ∧
    (∃ new, t.trace = new ++ s.trace ∧ ∀ v, .now v ∈ new → new = [.now v])

/-- 20_memory.md R71, 44_bus_controller.md R210: a step of an agent other than the engine changes no engine register; the
BCI's own steps change only INT, STO, SR's status, DR, EVT, BUSHELD and the mode, a Tick only NOW, a presented word only
the port, a host write only BUF. -/
def Obligations.OtherAgentsLeaveTheEngineAlone : Prop :=
  ∀ (s t : State) (m : Move), s.params.wf = true → m ≠ .engine → stepMove m s = .next t →
    t = { s with bci := t.bci, now := t.now, buf := t.buf, port := t.port } ∧
    t.bci = { s.bci with int := t.bci.int, sto := t.bci.sto, sr := t.bci.sr, dr := t.bci.dr, evt := t.bci.evt,
                         busHeld := t.bci.busHeld, mode := t.bci.mode } ∧
    t.bci.ps s.params = s.bci.ps s.params ∧
    ((∀ sigma delta, m ≠ .complete sigma delta) → m ≠ .stopDone → t.bci = s.bci) ∧
    (m ≠ .tick → t.now = s.now) ∧
    ((∀ i b, m ≠ .hostWrite i b) → t.buf = s.buf) ∧
    ((∀ w, m ≠ .present w) → t.port = s.port)

/-- 20_memory.md R70: while READY = 1 the host reads BUF without effect and writes the byte it names and no other; while
READY = 0 a host access is not admitted. R71: a second writer of BCI registers is not admitted. -/
def Obligations.HostAccessesBufOnlyWhileReady : Prop :=
  ∀ (s : State) (i : Nat) (b : Byte), i < s.params.bufSize →
    (s.ready = true → stepMove (.hostRead i) s = .next s) ∧
    (s.ready = true → bufWf s.params.bufSize s.buf = true →
      ∃ t, stepMove (.hostWrite i b) s = .next t ∧ t = { s with buf := t.buf } ∧ bufGet t.buf i = b ∧
        ∀ a, a ≠ i → bufGet t.buf a = bufGet s.buf a) ∧
    (s.ready = false → stepMove (.hostRead i) s = .refused .hostBufAccessWhileBusy ∧
      stepMove (.hostWrite i b) s = .refused .hostBufAccessWhileBusy) ∧
    ∀ r, stepMove (.foreignWrite r b) s = .refused .secondBciWriter

/-- 10_state.md R33: while INT = 1, the status field changes in no step but one that disables the BCI. -/
def Obligations.StatusIsStableWhileTheFlagIsSet : Prop :=
  ∀ s t : State, Inv s → step s = .next t → s.bci.int = true →
    t.bci.status s.params = s.bci.status s.params ∨
      (t.bci.on = false ∧ ∃ e, e ∈ t.trace.take 2 ∧ e = .crWrite 0x00#8)

/-! ## The wait loop -/

/-- 42_phases.md R163: at P_T0 the engine samples T0, whatever TIMEOUT is, and the next position is the issuing CR write; the
same at the position acceptance leaves, from which START's first action is taken, the model's choice (log 11); the nested
STOP samples its own. -/
def Obligations.T0IsSampledJustBeforeTheIssue : Prop :=
  ∀ s : State,
    ((s.ph = .t0 ∧ positionUsed s.seq .t0 = true) ∨ (s.seq = .tStart ∧ s.ph = .entry) →
      engineAction s = .next { s with t0 := s.now, ph := .issue, trace := .now s.now :: s.trace }) ∧
    (s.ph = .nstop .t0 → positionUsed s.seq (.nstop .t0) = true →
      engineAction s = .next { s with t0 := s.now, ph := .nstop .issue, trace := .now s.now :: s.trace })

/-- 60_exceptions.md R244: if the flag is visible at a P_POLL step the wait completes, whatever the elapsed time and TIMEOUT:
the event's wait goes to P_EVAL, STOP returns 0 and so ends the transaction, the nested STOP's caller returns S. -/
def Obligations.CompletionWinsOverTimeout : Prop :=
  ∀ (s : State) (kind : WaitKind) (clk : Phase), WaitsAt s kind clk → waitComplete kind s = true →
    ∃ t new, engineAction s = .next t ∧ t.trace = new ++ .crRead :: s.trace ∧ t.bci = s.bci ∧
      new.all transactionDone = true ∧
      (kind = .int → t.ph = .eval ∧ t.seq = s.seq ∧ new = []) ∧
      (kind = .sto → clk = .clock → t.rv = 0#8 ∧ t.seq = .idle ∧ new = [.done (commandOf s) (some 0#8)]) ∧
      (clk = .nstop .clock → t.rv = s.st)

/-- 42_phases.md R161: a poll that sees the event not complete samples TIMEOUT in the same step; with TIMEOUT = 0 it polls
again and reads no clock, otherwise it goes to the clock test; nothing else changes. -/
def Obligations.APollThatWaitsReadsTheClockOnlyWithATimeout : Prop :=
  ∀ (s : State) (kind : WaitKind) (clk : Phase), WaitsAt s kind clk → waitComplete kind s = false →
    engineAction s = .next { s with
      tSample := s.timeout, trace := .crRead :: s.trace, ph := if s.timeout = 0 then s.ph else clk }

/-- 70_reset_and_hazards.md R280, 42_phases.md R171: with TIMEOUT = 0, a wait whose event never completes never ends and
reads no clock: for every n, n steps of the engine are n polls. -/
def Obligations.WaitWithoutTimeoutHangs : Prop :=
  ∀ (n : Nat) (s : State) (kind : WaitKind) (clk : Phase), WaitsAt s kind clk → waitComplete kind s = false →
    s.timeout = 0 → s.port = [] → s.agenda = [] →
    ∃ t, runSteps n s = .next t ∧ WaitsAt t kind clk ∧ waitComplete kind t = false ∧ t.seq = s.seq ∧ t.ph = s.ph ∧
      t.bci = s.bci ∧ t.now = s.now ∧ t.rv = s.rv ∧ t.res = s.res ∧ t.trace = List.replicate n .crRead ++ s.trace

/-- 42_phases.md R162: the timeout test as arithmetic: the elapsed time is the difference modulo 2^CLOCK_W, the comparison is
strict, and the boundary tick never times out under NEVER, the default, and is a draw under MAY. -/
def Obligations.TimeoutTestIsStrictAndModular : Prop :=
  Config.Params.default.timeoutAtEqual = .never ∧
  ∀ (p : Config.Params) (draw now t0 t e : Nat), now < 2 ^ p.clockW → t0 < 2 ^ p.clockW →
    e = (now + 2 ^ p.clockW - t0) % 2 ^ p.clockW →
    (e > t → timedOut p draw now t0 t = true) ∧
    (e < t → timedOut p draw now t0 t = false) ∧
    (e = t → p.timeoutAtEqual = .never → timedOut p draw now t0 t = false) ∧
    (e = t → p.timeoutAtEqual = .may → timedOut p draw now t0 t = Config.freeAtEqual draw)

/-- 60_exceptions.md R245, R247: a clock test that finds the wait timed out enters recovery even if the event has completed
since the poll; three steps later the BCI holds no event, the primitive has returned E_TIMEOUT and the transaction has
ended with it, mapped. -/
def Obligations.ALateCompletionLosesToTheTimeout : Prop :=
  ∀ s : State, s.params.wf = true → s.ph = .clock → positionUsed s.seq .clock = true → clockExpired s = true →
    s.port = [] → s.agenda = [] →
    ∃ t, runSteps 3 s = .next t ∧ t.rv = 1#8 ∧ t.bci.evt = .none ∧ t.bci.on = true ∧ t.seq = .idle ∧
      t.trace = [.done (commandOf s) (some t.res), .crWrite (wEnableWord s.params), .crWrite 0x00#8, .now s.now] ++ s.trace

/-- 41_transactions.md R134: the result of a wait that times out, by transaction step, four steps from the poll. -/
def Obligations.ATimeoutIsReportedAsItsPhaseConstant : Prop :=
  ∀ (s : State) (kind : WaitKind), s.params.wf = true → WaitsAt s kind .clock → waitComplete kind s = false →
    s.timeout ≠ 0 → s.t0 < 2 ^ s.params.clockW →
    s.timeout < (s.now + 2 ^ s.params.clockW - s.t0) % 2 ^ s.params.clockW → s.port = [] → s.agenda = [] →
    ∃ t, runSteps 4 s = .next t ∧ t.seq = .idle ∧
      t.trace = [.done (commandOf s) (some t.res), .crWrite (wEnableWord s.params), .crWrite 0x00#8, .now s.now, .crRead]
        ++ s.trace ∧
      (s.seq = .tStart → t.res = 1#8) ∧ (s.seq = .tAddrW → t.res = s.params.eAddrTx) ∧
      (s.seq = .tReg ∨ s.seq = .tWdata → t.res = s.params.eTx) ∧ (s.seq = .tRstart → t.res = s.params.eRstart) ∧
      (s.seq = .tAddrR → t.res = s.params.eAddrRx) ∧ (s.seq = .tRdata → t.res = s.params.eRx) ∧
      (s.seq = .tStop → t.res = s.params.eStop)

/-- 42_phases.md R172, 70_reset_and_hazards.md R285, for the schedule that ticks once and lets the engine poll and test once
in each round: with TIMEOUT = t > 0 that the Time Source can exceed, and a BCI that never completes, no round before the
elapsed time exceeds t ends the wait; the round in which it is t + 1 does; exactly one LOCKUP follows, and the primitive
returns E_TIMEOUT (the nested STOP's caller its NACK status). -/
def Obligations.ATimeoutFiresAtTheFirstTickPastIt : Prop :=
  ∀ (s : State) (kind : WaitKind) (clk : Phase) (left : Nat), s.params.wf = true → WaitsAt s kind clk →
    waitComplete kind s = false → s.port = [] → s.params.timeoutAtEqual = .never → s.timeout ≠ 0 →
    s.now < 2 ^ s.params.clockW → s.t0 < 2 ^ s.params.clockW → s.timeout + 1 < 2 ^ s.params.clockW →
    (s.now + 2 ^ s.params.clockW - s.t0) % 2 ^ s.params.clockW + left = s.timeout →
    (∀ k ≤ left, ∃ u, runMoves (List.replicate k [Move.tick, .engine, .engine]).flatten s = .next u ∧
      u.ph = s.ph ∧ u.seq = s.seq ∧ crWords u.trace = crWords s.trace) ∧
    ∃ t, runMoves ((List.replicate (left + 1) [Move.tick, .engine, .engine]).flatten ++ [.engine, .engine]) s = .next t ∧
      (t.now + 2 ^ s.params.clockW - s.t0) % 2 ^ s.params.clockW = s.timeout + 1 ∧
      crWords t.trace = [wEnableWord s.params, wOffWord] ++ crWords s.trace ∧
      (clk = .clock → t.rv = 1#8) ∧ (clk = .nstop .clock → t.rv = s.st)

/-! ## Recovery -/

/-- 43_recovery.md R200: LOCKUP writes 0x00 and then W_ENABLE, two actions; between them the BCI is disabled; after them it
is on with automatic-ACK, without an event and with the bus released. LOCKUP itself writes no engine register, nor BR or PS
(`m` is the state its second write leaves); the primitive then returns E_TIMEOUT or the status that caused it (the nested
STOP's caller its NACK status), in the same step. -/
def Obligations.LockupReleasesTheBusAndReenables : Prop :=
  ∀ s : State, s.params.wf = true → positionUsed s.seq s.ph = true →
    (∃ cause, s.ph = .lock0 cause) ∨ s.ph = .nstop .lock0 →
    ∃ t m v, engineAction s = .next t ∧ exec .wEnable t = .next m ∧ engineAction t = .next (returnWith v m) ∧
      t = { s with ph := t.ph, bci := t.bci, trace := .crWrite 0x00#8 :: s.trace, draws := s.draws + 1 } ∧
      m = { t with bci := m.bci, trace := .crWrite (wEnableWord s.params) :: t.trace } ∧ t.bci.on = false ∧
      m.bci.on = true ∧ m.bci.ea = true ∧ m.bci.evt = .none ∧ m.bci.sto = false ∧ m.bci.busHeld = false ∧
      m.bci.br = s.bci.br ∧ m.bci.ps s.params = s.bci.ps s.params ∧
      (returnWith v m).bci = m.bci ∧ (returnWith v m).rv = v ∧
      (s.ph = .lock0 .timedOut → v = 1#8) ∧ (s.ph = .lock0 .status → v = s.st) ∧ (s.ph = .nstop .lock0 → v = s.st)

/-- 43_recovery.md R202: LOCKUP is entered only from an expired clock test or from a status whose row of R201 says "full"; no
command calls it; and its two words are written by nothing else but, W_OFF, END and, W_ENABLE, BEGIN, which are not
recovery: they leave the position alone. -/
def Obligations.RecoveryIsEnteredOnlyWhereTheTableSaysFull : Prop :=
  (∀ s t : State, s.params.wf = true → step s = .next t →
    (t.ph = .lock0 .timedOut → s.ph ≠ .lock0 .timedOut → s.ph = .clock ∧ clockExpired s = true) ∧
    (t.ph = .lock0 .status → s.ph ≠ .lock0 .status →
      s.ph = .eval ∧ ∃ prim, primitiveOf s = some prim ∧
        arbitrate s.params (s.bci.sr &&& s.params.srMask) prim = .full) ∧
    (t.ph = .nstop .lock0 → s.ph ≠ .nstop .lock0 → s.ph = .nstop .clock ∧ clockExpired s = true) ∧
    (∀ new, t.trace = new ++ s.trace → 0x00#8 ∈ crWords new →
      (∃ cause, s.ph = .lock0 cause) ∨ s.ph = .nstop .lock0 ∨ new.head? = some (.done .endCmd none)) ∧
    (∀ new, t.trace = new ++ s.trace → wEnableWord s.params ∈ crWords new →
      (∃ cause, s.ph = .lock1 cause) ∨ s.ph = .nstop .lock1 ∨ new.head? = some (.done .beginCmd none))) ∧
  ∀ (s t : State) (i : Instr), i.isCommand = true → accepts i s = true → exec i s = .next t →
    (∀ cause, t.ph = .lock0 cause → s.ph = .lock0 cause) ∧ (t.ph = .nstop .lock0 → s.ph = .nstop .lock0)

/-- 43_recovery.md R201: the whole arbitration table, as what the engine's step does at P_EVAL (every primitive but STOP),
at an expired clock test, and at STOP's poll. "none" takes no bus action and returns, "graceful" starts the nested STOP,
"full" enters LOCKUP; what is returned after those is R170's and R200's statements. `m` is the state with the masked status
latched. -/
def Obligations.RecoveryFollowsTheArbitrationTable : Prop :=
  (∀ (s m : State) (S : Byte), S = s.bci.sr &&& s.params.srMask → s.ph = .eval →
    m = { s with st := S, trace := .srRead s.bci.sr :: s.trace } →
    ((s.seq = .tStart ∨ s.seq = .tRstart) → engineAction s = .next (
      if S = s.params.stStart ∨ S = s.params.stRepStart then returnWith 0#8 m
      else if S = s.params.stArbLost then { m with ph := .lock0 .status }
      else returnWith S m)) ∧
    (∀ ack, (s.seq = .tAddrW ∧ ack = s.params.stMtSlaAck) ∨ (s.seq = .tAddrR ∧ ack = s.params.stMrSlaAck) →
      engineAction s = .next (
        if S = ack then returnWith 0#8 m
        else if S = s.params.stMtSlaNack ∨ S = s.params.stMrSlaNack then { m with ph := .nstop .t0 }
        else { m with ph := .lock0 .status })) ∧
    ((s.seq = .tReg ∨ s.seq = .tWdata) → engineAction s = .next (
      if S = s.params.stMtDataAck then returnWith 0#8 m
      else if S = s.params.stMtDataNack then { m with ph := .nstop .t0 }
      else { m with ph := .lock0 .status })) ∧
    (s.seq = .tRdata → engineAction s = .next (
      if S = s.params.stArbLost then { m with ph := .lock0 .status } else returnWith S m))) ∧
  (∀ s : State, s.ph = .clock → positionUsed s.seq .clock = true → clockExpired s = true →
    engineAction s = .next { s with ph := .lock0 .timedOut, trace := .now s.now :: s.trace, draws := s.draws + 1 }) ∧
  (∀ s : State, s.params.wf = true → s.seq = .tStop → s.ph = .poll → s.bci.sto = false →
    engineAction s = .next (returnWith 0#8 { s with tSample := s.timeout, trace := .crRead :: s.trace })) ∧
  ∀ (v : Byte) (s : State), (returnWith v s).rv = v ∧ (returnWith v s).bci = s.bci

/-- 42_phases.md R170: the nested STOP's result is discarded: whether it completes at its poll or times out and runs its own
LOCKUP, the primitive returns its NACK status S, S is unchanged, and a nonzero S ends the transaction with that result. -/
def Obligations.TheGracefulStopReturnsTheNack : Prop :=
  ∀ s : State, s.params.wf = true → s.port = [] → s.agenda = [] →
    (s.ph = .nstop .poll → positionUsed s.seq s.ph = true → s.bci.sto = false →
      ∃ t, runSteps 1 s = .next t ∧ t.rv = s.st ∧ t.st = s.st ∧
        (s.st ≠ 0#8 → s.st ≠ 1#8 → t.seq = .idle ∧ t.res = s.st)) ∧
    (s.ph = .nstop .clock → positionUsed s.seq s.ph = true → clockExpired s = true →
      ∃ t, runSteps 3 s = .next t ∧ t.rv = s.st ∧ t.st = s.st ∧
        (s.st ≠ 0#8 → s.st ≠ 1#8 → t.seq = .idle ∧ t.res = s.st) ∧
        crWords t.trace = [wEnableWord s.params, wOffWord] ++ crWords s.trace)

/-- 43_recovery.md R203: for parameters that obey R7, a transaction runs at most one LOCKUP, its nested STOP's included, when
no completion draws the status 0; for every schedule of every agent, at every point up to its DONE. -/
def Obligations.ATransactionRunsAtMostOneLockup : Prop :=
  ∀ (s s1 t : State) (i : Instr) (moves : List Move) (new : List Event), s.params.wf = true →
    (∃ addr reg count, i = .write addr reg count ∨ i = .read addr reg count) → s.ready = true →
    exec i s = .next s1 → moves.all (noZeroStatus s.params) = true → runMoves moves s1 = .next t →
    t.trace = new ++ s1.trace → new.tail.all (fun e => !transactionDone e) = true →
    (crWords new).count wOffWord ≤ 1

/-! ## The transaction sequencer -/

/-- 42_phases.md R160, R165 to R169, 30_encoding.md R85: at P_ISSUE each transaction step writes its primitive's control
word and goes to the poll; only the BCI changes besides. -/
def Obligations.EachStepIssuesItsControlWord : Prop :=
  ∀ (s : State) (w : Byte), s.params.wf = true →
    (s.ph = .issue ∧
      (((s.seq = .tStart ∨ s.seq = .tRstart) ∧ w = wStartWord s.params) ∨
       ((s.seq = .tAddrW ∨ s.seq = .tReg ∨ s.seq = .tWdata ∨ s.seq = .tAddrR) ∧ w = wSendWord s.params) ∨
       (s.seq = .tRdata ∧ s.idx + 1 < (if s.cnt = 0 then 1 else s.cnt) ∧ w = wRackWord s.params) ∨
       (s.seq = .tRdata ∧ ¬ s.idx + 1 < (if s.cnt = 0 then 1 else s.cnt) ∧ w = wRnackWord s.params) ∨
       (s.seq = .tStop ∧ w = wStopWord s.params)) →
      ∃ t, engineAction s = .next t ∧ t.bci.int = false ∧ t.bci.on = true ∧ t.bci.evt ≠ .none ∧
        t = { s with ph := .poll, bci := t.bci, trace := .crWrite w :: s.trace }) ∧
    (s.ph = .nstop .issue ∧ positionUsed s.seq s.ph = true →
      ∃ t, engineAction s = .next t ∧ t.bci.sto = true ∧ t.bci.evt = .stop ∧
        t = { s with ph := .nstop .poll, bci := t.bci, trace := .crWrite (wStopWord s.params) :: s.trace })

/-- 41_transactions.md R131: WRITE reads BUF[IDX] just before sending it, and changes nothing else.
30_encoding.md R83, 42_phases.md R166, R167: at P_DR the byte written to DR is SLA+W = ADR << 1, SLA+R = ADR << 1 | 1,
REG, or the payload byte read; with INT = 1 it reaches DR, and only DR changes. 44_bus_controller.md R217,
70_reset_and_hazards.md R286: with INT = 0 the step sets WC, DR is the old byte or the new one, and the engine goes on. -/
def Obligations.TheByteToSendGoesToTheDataRegister : Prop :=
  (∀ s : State, s.seq = .tWdata → s.ph = .buf →
    engineAction s = .next { s with
      txByte := bufGet s.buf s.idx, ph := .dr, trace := .bufRead s.idx (bufGet s.buf s.idx) :: s.trace }) ∧
  ∀ (s : State) (b : Byte), s.ph = .dr →
    ((s.seq = .tAddrW ∧ b = s.adr.setWidth 8 <<< 1) ∨ (s.seq = .tAddrR ∧ b = s.adr.setWidth 8 <<< 1 ||| 1#8) ∨
     (s.seq = .tReg ∧ b = s.reg) ∨ (s.seq = .tWdata ∧ b = s.txByte)) →
    (s.bci.int = true →
      engineAction s = .next { s with ph := .t0, bci := { s.bci with dr := b }, trace := .drWrite b :: s.trace }) ∧
    (s.bci.int = false → ∃ dr, (dr = b ∨ dr = s.bci.dr) ∧
      engineAction s = .next { s with
        ph := .t0, bci := { s.bci with wc := true, dr := dr }, trace := .drWrite b :: s.trace, draws := s.draws + 1 })

/-- 41_transactions.md R130, R131, R132: what follows a primitive that returned 0 (every step but a receive), in the step
of its last action (20_memory.md R66), and abort-on-nonzero with the phase constant of R134. -/
def Obligations.TheSequencerContinuesOnZeroAndAbortsOtherwise : Prop :=
  ∀ (s : State) (q : Seq) (ph : Phase),
    ((s.seq = .tStart ∧ q = .tAddrW ∧ ph = .dr) ∨ (s.seq = .tAddrW ∧ q = .tReg ∧ ph = .dr) ∨
     (s.seq = .tReg ∧ s.opr = true ∧ q = .tRstart ∧ ph = .t0) ∨ (s.seq = .tRstart ∧ q = .tAddrR ∧ ph = .dr) →
      returnWith 0#8 s = { s with rv := 0#8, seq := q, ph := ph }) ∧
    (s.seq = .tAddrR → returnWith 0#8 s = { s with rv := 0#8, idx := 0, seq := .tRdata, ph := .t0 }) ∧
    (s.seq = .tReg → s.opr = false →
      returnWith 0#8 s = { s with
        rv := 0#8, idx := 0, seq := if 0 < s.cnt then .tWdata else .tStop, ph := if 0 < s.cnt then .buf else .t0 }) ∧
    (s.seq = .tWdata →
      returnWith 0#8 s = { s with
        rv := 0#8, idx := s.idx + 1, seq := if s.idx + 1 < s.cnt then .tWdata else .tStop,
        ph := if s.idx + 1 < s.cnt then .buf else .t0 }) ∧
    (s.seq = .tStop → (returnWith 0#8 s).seq = .idle ∧ (returnWith 0#8 s).rv = 0#8 ∧ (returnWith 0#8 s).res = 0#8) ∧
    ∀ v, v ≠ 0#8 → s.seq ≠ .tRdata → (returnWith v s).seq = .idle ∧ (returnWith v s).rv = v ∧
      (returnWith v s).res = (if v = 1#8 then phaseConstant s.params s.seq else v) ∧
      (returnWith v s).trace = .done (commandOf s) (some (returnWith v s).res) :: s.trace

/-- 41_transactions.md R132: READ accepts only the status it requested for the byte; any other but arbitration lost ends the
transaction with that status as the result, and nothing is stored by this step. -/
def Obligations.ReadAcceptsOnlyTheRequestedStatus : Prop :=
  ∀ (s : State) (S want : Byte), s.params.wf = true → s.seq = .tRdata → s.ph = .eval →
    S = s.bci.sr &&& s.params.srMask → S ≠ s.params.stArbLost →
    want = (if s.idx + 1 < (if s.cnt = 0 then 1 else s.cnt) then s.params.stMrDataAck else s.params.stMrDataNack) →
    ∃ t, engineAction s = .next t ∧ t.rv = S ∧ t.bci = s.bci ∧
      (S = want → t = { s with st := S, rv := S, ph := .rdr, trace := .srRead s.bci.sr :: s.trace }) ∧
      (S ≠ want → t.ph = .entry ∧ t.seq = .idle ∧ t.res = S ∧
        t.trace = [.done (commandOf s) (some S), .srRead s.bci.sr] ++ s.trace)

/-- 41_transactions.md R132, 43_recovery.md R201: a receive that loses arbitration runs LOCKUP, and READ then ends with
RES = ST_ARB_LOST: it is not the status READ requested (00_scope.md R7), nothing more is stored, and no STOP runs. -/
def Obligations.ReadReportsLostArbitration : Prop :=
  ∀ s : State, s.params.wf = true → s.seq = .tRdata → s.ph = .eval → s.bci.sr &&& s.params.srMask = s.params.stArbLost →
    s.port = [] → s.agenda = [] →
    ∃ t, runSteps 3 s = .next t ∧ t.seq = .idle ∧ t.res = s.params.stArbLost ∧ t.bci.evt = .none ∧ t.bci.on = true ∧
      t.trace = [.done (commandOf s) (some s.params.stArbLost), .crWrite (wEnableWord s.params), .crWrite 0x00#8,
        .srRead s.bci.sr] ++ s.trace

/-- 41_transactions.md R132, R64: the accepted byte is read from DR and stored at BUF[IDX], two actions; every other byte of
BUF reads as before; then the next byte, or the final STOP after the last. -/
def Obligations.ReadStoresTheAcceptedByte : Prop :=
  ∀ s : State, Inv s → s.ph = .rdr →
    ∃ t u, engineAction s = .next t ∧ engineAction t = .next u ∧ t.buf = s.buf ∧
      t.trace = .drRead s.bci.dr :: s.trace ∧ u.trace = .bufWrite s.idx s.bci.dr :: t.trace ∧
      recvIndex s = s.idx ∧ bufGet u.buf (recvIndex s) = s.bci.dr ∧
      (∀ a, a ≠ recvIndex s → bufGet u.buf a = bufGet s.buf a) ∧ u.bci = s.bci ∧ u.res = s.res ∧
      (s.idx + 1 < (if s.cnt = 0 then 1 else s.cnt) → u.seq = .tRdata ∧ u.ph = .t0 ∧ u.idx = s.idx + 1) ∧
      (¬ s.idx + 1 < (if s.cnt = 0 then 1 else s.cnt) → u.seq = .tStop ∧ u.ph = .t0)

/-- 40_lifecycle.md R110, 41_transactions.md R134, R135, 20_memory.md R66: the engine action that ends a transaction reports
the mapped result in RES and DONE and returns to IDLE in the same step; a READ that failed leaves each of its n' bytes of
BUF to a draw and the others as they were; every other finish leaves all of BUF. -/
def Obligations.FinishReportsTheResult : Prop :=
  ∀ s t : State, Inv s → s.seq ≠ .idle → engineAction s = .next t → t.seq = .idle →
    t.res = (if t.rv = 1#8 then phaseConstant s.params s.seq else t.rv) ∧ t.ph = .entry ∧ t.ready = true ∧
    t.trace.head? = some (.done (commandOf s) (some t.res)) ∧
    (s.opr = false ∨ t.res = 0#8 → ∀ a, bufGet t.buf a = bufGet s.buf a) ∧
    (s.opr = true → t.res ≠ 0#8 →
      (∀ a, a < (if s.cnt = 0 then 1 else s.cnt) → bufGet t.buf a = Config.freeBuf s.draws a) ∧
      ∀ a, (if s.cnt = 0 then 1 else s.cnt) ≤ a → bufGet t.buf a = bufGet s.buf a)

/-- 20_memory.md R60, 41_transactions.md R131, R135: no engine action of a WRITE changes any byte of BUF, and none of a READ
changes a byte at or above n' = max(CNT, 1). -/
def Obligations.TransactionsLeaveTheRestOfBufAlone : Prop :=
  ∀ s t : State, Inv s → engineAction s = .next t →
    (s.opr = false → ∀ a, bufGet t.buf a = bufGet s.buf a) ∧
    (s.opr = true → ∀ a, (if s.cnt = 0 then 1 else s.cnt) ≤ a → bufGet t.buf a = bufGet s.buf a)

/-- 10_state.md R29: whatever the agent, RES changes only in the step that finishes a WRITE or READ, which emits its DONE
with the new value. -/
def Obligations.ResultChangesOnlyAtFinish : Prop :=
  ∀ s t : State, step s = .next t →
    t.res = s.res ∨
      (s.seq ≠ .idle ∧ t.seq = .idle ∧ t.trace.head? = some (.done (commandOf s) (some t.res)))

/-- 20_memory.md R66: each engine action is at most one of R9's actions; where it ends the transaction, the DONE follows it in
the same step, and nothing else does. The steps of the other agents emit no event. -/
def Obligations.EngineTakesOneActionAtATime : Prop :=
  (∀ s t : State, engineAction s = .next t →
    t.trace = s.trace ∨ (∃ e, t.trace = e :: s.trace) ∨
      ∃ e, transactionDone e = false ∧ t.trace = .done (commandOf s) (some t.res) :: e :: s.trace ∧ t.seq = .idle) ∧
  ∀ (s t : State) (m : Move), m ≠ .engine → stepMove m s = .next t → t.trace = s.trace

/-- 41_transactions.md R136: for parameters that obey R7 and every schedule of every agent in which no completion draws the
status 0, a WRITE or READ that finishes with the result 0 has written exactly the control words of R136 to CR, in order. -/
def Obligations.SuccessfulTransactionsFollowThePhaseOrder : Prop :=
  ∀ (s s1 t : State) (i : Instr) (addr : SlaveAddr) (reg : Byte) (count : Nat) (moves : List Move) (new : List Event),
    s.params.wf = true → s.ready = true → moves.all (noZeroStatus s.params) = true → runMoves moves s1 = .next t →
    t.trace = .done i (some 0#8) :: (new ++ s1.trace) → new.all (fun e => !transactionDone e) = true →
    (exec (.write addr reg count) s = .next s1 →
      i = .write addr reg count ∧ crWords new.reverse = writeSequence s.params count) ∧
    (exec (.read addr reg count) s = .next s1 →
      i = .read addr reg count ∧ crWords new.reverse = readSequence s.params (if count = 0 then 1 else count))

/-! ## Against the reference slave

The three statements take BEGUN, as 70_reset_and_hazards.md R273 asks of a claim that a transaction succeeds, and rest on
MOCK(A) as log 28 spells it out: the runs are those of `runMock`, in which each event completes right before the engine's
next step with no Tick and no host move between, the model's choice. -/

/-- 41_transactions.md R131 against MOCK(A) (44_bus_controller.md R224; log 28), each event completing right before
the engine's next step (the model's choice, log 28): after a BEGIN, a WRITE to the slave's address finishes with RES = 0, the control words of R136, BUF unchanged, and its payload in the slave's
registers from REG on, modulo 256 (the last byte for a register wins), no other register changed. -/
def Obligations.WriteReachesTheReferenceSlave : Prop :=
  ∀ (s s1 : State) (m : Mock) (reg : Byte) (count : Nat), Inv s → begun s = true → s.ready = true → s.port = [] →
    bufWf 256 m.mem = true → count < 2 ^ s.params.countW → exec (.write m.addr reg count) s = .next s1 →
    ∃ n t m', runMock n m s1 = (.next t, m') ∧ t.seq = .idle ∧ t.res = 0#8 ∧
      (∃ new, t.trace = new ++ s1.trace ∧ crWords new.reverse = writeSequence s.params count) ∧
      (∀ a, bufGet t.buf a = bufGet s.buf a) ∧ m'.ptr = reg + BitVec.ofNat 8 count ∧
      (∀ i < count, count ≤ i + 256 → bufGet m'.mem ((reg.toNat + i) % 256) = bufGet s.buf i) ∧
      ∀ j : Byte, (∀ i < count, (reg.toNat + i) % 256 ≠ j.toNat) → bufGet m'.mem j.toNat = bufGet m.mem j.toNat

/-- 41_transactions.md R132 against MOCK(A) (log 28, which also chooses when events complete): after a BEGIN, a READ of the slave's address finishes with RES = 0, the
control words of R136, and BUF[0 .. n'-1] the slave's registers from REG on, modulo 256, no other byte of BUF changed. -/
def Obligations.ReadFetchesFromTheReferenceSlave : Prop :=
  ∀ (s s1 : State) (m : Mock) (reg : Byte) (count n' : Nat), Inv s → begun s = true → s.ready = true → s.port = [] →
    count < 2 ^ s.params.countW → n' = (if count = 0 then 1 else count) → exec (.read m.addr reg count) s = .next s1 →
    ∃ n t m', runMock n m s1 = (.next t, m') ∧ t.seq = .idle ∧ t.res = 0#8 ∧
      (∃ new, t.trace = new ++ s1.trace ∧ crWords new.reverse = readSequence s.params n') ∧ m'.mem = m.mem ∧
      (∀ a < n', bufGet t.buf a = bufGet m.mem ((reg.toNat + a) % 256)) ∧
      ∀ a ≥ n', bufGet t.buf a = bufGet s.buf a

/-- 95_test_vectors.md L1.1, for every payload: after a BEGIN, what a WRITE of 1 to 256 bytes (as many as COUNT_W and the
slave's register file allow) wrote to MOCK(A) (log 28, which also chooses when events complete), a READ of the same register and count gives back, both with the
result 0. -/
def Obligations.ReadGivesBackWhatWriteWrote : Prop :=
  ∀ (s s1 : State) (m : Mock) (reg : Byte) (count : Nat), Inv s → begun s = true → s.ready = true → s.port = [] →
    bufWf 256 m.mem = true → count < 2 ^ s.params.countW → count ≠ 0 → count ≤ 256 →
    exec (.write m.addr reg count) s = .next s1 →
    ∃ n t m' t1 k u m'', runMock n m s1 = (.next t, m') ∧ t.ready = true ∧ t.res = 0#8 ∧
      exec (.read m.addr reg count) t = .next t1 ∧ runMock k m' t1 = (.next u, m'') ∧ u.ready = true ∧ u.res = 0#8 ∧
      ∀ a < count, bufGet u.buf a = bufGet s.buf a
end

