-- ==== Sys2Proof/Laws/Buf.lean ====
section
/-! SUPPORT. The laws of BUF: a read after a write, a write leaves every other index alone, every operation keeps the
canonical form. -/

namespace Sys2Proof.Machine

variable {size : Nat}

@[simp] theorem bufGet_nil (i : Nat) : bufGet [] i = unlistedByte := rfl

@[simp] theorem bufGet_cons (a : Nat) (v : Byte) (rest : List Host.Cell) (i : Nat) :
    bufGet ((a, v) :: rest) i = if a = i then v else bufGet rest i := rfl

/-- A write leaves every other index alone, whatever the list. -/
theorem bufGet_bufSet_other (m : List Host.Cell) {i j : Nat} (b : Byte) (h : j ≠ i) :
    bufGet (bufSet m i b) j = bufGet m j := by
  induction m with
  | nil =>
    by_cases hb : b = unlistedByte
    · simp [bufSet, hb]
    · simp [bufSet, hb, Ne.symm h]
  | cons c rest ih =>
    obtain ⟨a, v⟩ := c
    simp only [bufSet]
    split_ifs with h1 h2 h3 h4
    · rfl
    · rw [bufGet_cons, if_neg (Ne.symm h)]
    · rw [bufGet_cons, if_neg (fun e => h (by omega))]
    · rw [bufGet_cons, bufGet_cons, if_neg (Ne.symm h), if_neg (fun e => h (by omega))]
    · rw [bufGet_cons, bufGet_cons, ih]

/-- An index below the lower bound of a canonical list is unlisted. -/
theorem bufGet_below {m : List Host.Cell} {lo i : Nat} (hm : bufWfFrom size lo m = true) (h : i < lo) :
    bufGet m i = unlistedByte := by
  induction m generalizing lo with
  | nil => rfl
  | cons c rest ih =>
    obtain ⟨a, v⟩ := c
    simp only [bufWfFrom, Bool.and_eq_true, decide_eq_true_eq] at hm
    obtain ⟨⟨⟨h1, _⟩, _⟩, h4⟩ := hm
    rw [bufGet_cons, if_neg (by omega)]
    exact ih h4 (by omega)

/-- A read after a write to the same index gives the byte written, from any lower bound. -/
theorem bufGet_bufSet_from {m : List Host.Cell} {lo : Nat} (hm : bufWfFrom size lo m = true) (i : Nat) (b : Byte) :
    bufGet (bufSet m i b) i = b := by
  induction m generalizing lo with
  | nil => by_cases hb : b = unlistedByte <;> simp [bufSet, hb]
  | cons c rest ih =>
    obtain ⟨a, v⟩ := c
    simp only [bufWfFrom, Bool.and_eq_true, decide_eq_true_eq] at hm
    obtain ⟨⟨⟨_, _⟩, _⟩, h4⟩ := hm
    simp only [bufSet]
    split_ifs with h1 h2 h3 h5
    · rw [bufGet_cons, if_neg (by omega), bufGet_below h4 (by omega), h2]
    · simp
    · rw [bufGet_below h4 (by omega), h5]
    · simp
    · rw [bufGet_cons, if_neg (by omega)]
      exact ih h4

/-- A read after a write to the same index gives the byte written. -/
theorem bufGet_bufSet_same {m : List Host.Cell} (hm : bufWf size m = true) (i : Nat) (b : Byte) :
    bufGet (bufSet m i b) i = b :=
  bufGet_bufSet_from hm i b

/-- A write at or above the lower bound keeps the canonical form above it. -/
theorem bufSet_wfFrom {m : List Host.Cell} {lo : Nat} (hm : bufWfFrom size lo m = true) {i : Nat} (b : Byte)
    (hlo : lo ≤ i) (hi : i < size) : bufWfFrom size lo (bufSet m i b) = true := by
  induction m generalizing lo with
  | nil => by_cases hb : b = unlistedByte <;> simp [bufSet, hb, bufWfFrom, hlo, hi]
  | cons c rest ih =>
    obtain ⟨a, v⟩ := c
    have hm' := hm
    simp only [bufWfFrom, Bool.and_eq_true, decide_eq_true_eq] at hm
    obtain ⟨⟨⟨h1, h2⟩, h3⟩, h4⟩ := hm
    have low {k : Nat} (hk : k ≤ a + 1) : bufWfFrom size k rest = true := by
      cases rest with
      | nil => rfl
      | cons d r =>
        obtain ⟨e, w⟩ := d
        simp only [bufWfFrom, Bool.and_eq_true, decide_eq_true_eq] at h4 ⊢
        exact ⟨⟨⟨by omega, h4.1.1.2⟩, h4.1.2⟩, h4.2⟩
    simp only [bufSet]
    split_ifs with h5 h6 h7 h8
    · exact hm'
    · simp only [bufWfFrom, Bool.and_eq_true, decide_eq_true_eq]
      exact ⟨⟨⟨hlo, hi⟩, by simpa using h6⟩, ⟨⟨⟨by omega, h2⟩, h3⟩, h4⟩⟩
    · exact low (by omega)
    · simp only [bufWfFrom, Bool.and_eq_true, decide_eq_true_eq]
      exact ⟨⟨⟨hlo, hi⟩, by simpa using h8⟩, h7 ▸ h4⟩
    · simp only [bufWfFrom, Bool.and_eq_true, decide_eq_true_eq]
      exact ⟨⟨⟨h1, h2⟩, h3⟩, ih h4 (by omega)⟩

/-- A write inside BUF keeps the canonical form. -/
theorem bufSet_wf {m : List Host.Cell} (hm : bufWf size m = true) {i : Nat} (b : Byte) (hi : i < size) :
    bufWf size (bufSet m i b) = true :=
  bufSet_wfFrom hm b (Nat.zero_le i) hi

/-- Drawing the first `n` bytes keeps the canonical form. -/
theorem bufDraw_wf {m : List Host.Cell} (hm : bufWf size m = true) (d : Nat) {n : Nat} (hn : n ≤ size) :
    bufWf size (bufDraw d n m) = true := by
  induction n with
  | zero => exact hm
  | succ n ih => exact bufSet_wf (ih (by omega)) _ (by omega)

/-- Drawing the first `n` bytes leaves the others alone. -/
theorem bufGet_bufDraw_other (m : List Host.Cell) (d : Nat) {n i : Nat} (h : n ≤ i) :
    bufGet (bufDraw d n m) i = bufGet m i := by
  induction n with
  | zero => rfl
  | succ n ih =>
    rw [bufDraw, bufGet_bufSet_other _ _ (by omega)]
    exact ih (by omega)

end Sys2Proof.Machine
end

