-- ==== Sys2Proof/Laws/Encode.lean ====
section
/-! SUPPORT. What each field of a command word reads in each format (30_encoding.md R81), for every width the parameters
allow: the small lemmas a round-trip proof cites. -/

namespace Sys2Proof

/-! ## Fields placed in a word -/

/-- The bits of a placed number. -/
theorem getLsbD_placed (low n i : Nat) :
    (placed low n).getLsbD i = (decide (i < 32) && (decide (low ≤ i) && n.testBit (i - low))) := by
  simp [placed, BitVec.getLsbD_ofNat, Nat.testBit_mul_two_pow]

/-- A number has no bit at or above its width. -/
theorem testBit_field {n k i : Nat} (h : n < 2 ^ k) (hi : k ≤ i) : n.testBit i = false :=
  Nat.testBit_lt_two_pow (Nat.lt_of_lt_of_le h (Nat.pow_le_pow_right (by omega) hi))

/-- Where a number stands whole in a word, extracting its bits gives it back. -/
theorem extract_eq {w : CommandWord} {low k n : Nat} (hn : n < 2 ^ k)
    (h : ∀ i < k, w.getLsbD (low + i) = n.testBit i) : (w.extractLsb' low k).toNat = n := by
  have e : w.extractLsb' low k = BitVec.ofNat k n := by
    apply BitVec.eq_of_getLsbD_eq
    intro i hi
    rw [BitVec.getLsbD_extractLsb', BitVec.getLsbD_ofNat, h i hi]
  rw [e, BitVec.toNat_ofNat, Nat.mod_eq_of_lt hn]

/-- Where a bit vector stands whole in a word, extracting its bits gives it back. -/
theorem extract_eq_bitvec {w : CommandWord} {low k : Nat} {v : BitVec k}
    (h : ∀ i < k, w.getLsbD (low + i) = v.getLsbD i) : w.extractLsb' low k = v := by
  apply BitVec.eq_of_getLsbD_eq
  intro i hi
  rw [BitVec.getLsbD_extractLsb', h i hi]
  simp [hi]

/-- Where every bit is clear, extracting gives 0. -/
theorem extract_eq_zero {w : CommandWord} {low k : Nat} (h : ∀ i < k, w.getLsbD (low + i) = false) :
    w.extractLsb' low k = 0 := by
  apply BitVec.eq_of_getLsbD_eq
  intro i hi
  rw [BitVec.getLsbD_extractLsb', h i hi]
  simp

/-- OP has its four bits above everything else. -/
theorem extract_op {w : CommandWord} {op : BitVec 4}
    (h : ∀ i < 4, w.getLsbD (28 + i) = op.getLsbD i) : opField w = op := extract_eq_bitvec h

/-! ## The bits of each format -/

theorem getLsbD_formatN (op : BitVec 4) (i : Nat) :
    (formatN op).getLsbD i = (decide (i < 32) && (decide (28 ≤ i) && op.getLsbD (i - 28))) := by
  rw [formatN, getLsbD_placed]
  rfl

theorem getLsbD_formatT (op : BitVec 4) (ms i : Nat) :
    (formatT op ms).getLsbD i = (decide (i < 32) && ((decide (28 ≤ i) && op.getLsbD (i - 28)) || ms.testBit i)) := by
  rw [formatT, BitVec.getLsbD_or, getLsbD_placed, getLsbD_placed, ← Bool.and_or_distrib_left]
  simp [BitVec.testBit_toNat]

theorem getLsbD_formatS (op : BitVec 4) (fast : Bool) (i : Nat) :
    (formatS op fast).getLsbD i =
      (decide (i < 32) && ((decide (28 ≤ i) && op.getLsbD (i - 28)) || fast.toNat.testBit i)) := by
  rw [formatS, BitVec.getLsbD_or, getLsbD_placed, getLsbD_placed, ← Bool.and_or_distrib_left]
  simp [BitVec.testBit_toNat]

theorem getLsbD_formatX (p : Config.Params) (op : BitVec 4) (addr : SlaveAddr) (reg : Byte) (count i : Nat) :
    (formatX p op addr reg count).getLsbD i =
      (decide (i < 32) && ((decide (28 ≤ i) && op.getLsbD (i - 28)) ||
        ((decide (p.countW + 8 ≤ i) && addr.getLsbD (i - (p.countW + 8))) ||
          ((decide (p.countW ≤ i) && reg.getLsbD (i - p.countW)) || count.testBit i)))) := by
  simp only [formatX, BitVec.getLsbD_or, getLsbD_placed, BitVec.testBit_toNat, ← Bool.and_or_distrib_left]
  simp [Bool.or_assoc]

/-! ## What each field reads -/

@[simp] theorem opField_formatN (op : BitVec 4) : opField (formatN op) = op :=
  extract_op fun i hi => by simp [getLsbD_formatN]; intro; omega

@[simp] theorem reservedN_formatN (op : BitVec 4) : reservedN (formatN op) = 0 :=
  extract_eq_zero fun i hi => by simp [getLsbD_formatN]; omega

variable {p : Config.Params}

theorem opField_formatT (op : BitVec 4) {ms : Nat} (h : ms < 2 ^ 28) : opField (formatT op ms) = op :=
  extract_op fun i hi => by
    simp [getLsbD_formatT, testBit_field h (show 28 ≤ 28 + i by omega)]; intro; omega

theorem reservedT_formatT (op : BitVec 4) {ms : Nat} (h : ms < 2 ^ p.timeoutW) : reservedT p (formatT op ms) = 0 :=
  extract_eq_zero fun i hi => by
    simp [getLsbD_formatT, testBit_field h (show p.timeoutW ≤ p.timeoutW + i by omega)]; omega

theorem msField_formatT (op : BitVec 4) {ms : Nat} (h : ms < 2 ^ p.timeoutW) (hp : p.timeoutW ≤ 28) :
    msField p (formatT op ms) = ms :=
  extract_eq h fun i hi => by
    rw [getLsbD_formatT]; simp [show i < 32 by omega, show ¬ 28 ≤ i by omega]

theorem fast_testBit (fast : Bool) {i : Nat} (h : 1 ≤ i) : fast.toNat.testBit i = false :=
  testBit_field (k := 1) (by cases fast <;> decide) h

@[simp] theorem opField_formatS (op : BitVec 4) (fast : Bool) : opField (formatS op fast) = op :=
  extract_op fun i hi => by simp [getLsbD_formatS, fast_testBit fast (show 1 ≤ 28 + i by omega)]; intro; omega

@[simp] theorem reservedS_formatS (op : BitVec 4) (fast : Bool) : reservedS (formatS op fast) = 0 :=
  extract_eq_zero fun i hi => by simp [getLsbD_formatS, fast_testBit fast (show 1 ≤ 1 + i by omega)]; omega

@[simp] theorem fastField_formatS (op : BitVec 4) (fast : Bool) : fastField (formatS op fast) = fast := by
  rw [fastField, getLsbD_formatS]
  cases fast <;> rfl

section FormatX

variable (op : BitVec 4) (addr : SlaveAddr) (reg : Byte) {count : Nat}

theorem opField_formatX (h : count < 2 ^ p.countW) (hp : p.countW ≤ 13) : opField (formatX p op addr reg count) = op :=
  extract_op fun i hi => by
    rw [getLsbD_formatX, testBit_field h (by omega), BitVec.getLsbD_of_ge addr _ (by omega),
      BitVec.getLsbD_of_ge reg _ (by omega)]
    simp; intro; omega

theorem reservedX_formatX (h : count < 2 ^ p.countW) : reservedX p (formatX p op addr reg count) = 0 :=
  extract_eq_zero fun i hi => by
    rw [getLsbD_formatX, testBit_field h (by omega), BitVec.getLsbD_of_ge addr _ (by omega),
      BitVec.getLsbD_of_ge reg _ (by omega)]
    simp; omega

theorem countField_formatX (h : count < 2 ^ p.countW) (hp : p.countW ≤ 13) :
    countField p (formatX p op addr reg count) = count :=
  extract_eq h fun i hi => by
    rw [getLsbD_formatX]
    simp [show i < 32 by omega, show ¬ 28 ≤ i by omega, show ¬ p.countW + 8 ≤ i by omega, show ¬ p.countW ≤ i by omega]

theorem regField_formatX (h : count < 2 ^ p.countW) (hp : p.countW ≤ 13) :
    regField p (formatX p op addr reg count) = reg :=
  extract_eq_bitvec fun i hi => by
    rw [getLsbD_formatX, testBit_field h (by omega)]
    simp [show p.countW + i < 32 by omega, show ¬ 28 ≤ p.countW + i by omega,
      show ¬ 8 ≤ i by omega]

theorem addrField_formatX (h : count < 2 ^ p.countW) (hp : p.countW ≤ 13) :
    addrField p (formatX p op addr reg count) = addr :=
  extract_eq_bitvec fun i hi => by
    rw [getLsbD_formatX, testBit_field h (by omega), BitVec.getLsbD_of_ge reg _ (by omega)]
    simp [show p.countW + 8 + i < 32 by omega, show ¬ 28 ≤ p.countW + 8 + i by omega]

end FormatX

end Sys2Proof
end

