-- ==== Sys2Proof/Laws/State.lean ====
section
/-! SUPPORT. One lemma per field of State per named update, so that no proof unfolds a record update. -/

namespace Sys2Proof.Machine.State

variable (s : State)

/-! `emit` -/

@[simp] theorem emit_timeout (e : Event) : (s.emit e).timeout = s.timeout := rfl
@[simp] theorem emit_speed (e : Event) : (s.emit e).speed = s.speed := rfl
@[simp] theorem emit_pu (e : Event) : (s.emit e).pu = s.pu := rfl
@[simp] theorem emit_seq (e : Event) : (s.emit e).seq = s.seq := rfl
@[simp] theorem emit_ph (e : Event) : (s.emit e).ph = s.ph := rfl
@[simp] theorem emit_opr (e : Event) : (s.emit e).opr = s.opr := rfl
@[simp] theorem emit_adr (e : Event) : (s.emit e).adr = s.adr := rfl
@[simp] theorem emit_reg (e : Event) : (s.emit e).reg = s.reg := rfl
@[simp] theorem emit_cnt (e : Event) : (s.emit e).cnt = s.cnt := rfl
@[simp] theorem emit_idx (e : Event) : (s.emit e).idx = s.idx := rfl
@[simp] theorem emit_st (e : Event) : (s.emit e).st = s.st := rfl
@[simp] theorem emit_t0 (e : Event) : (s.emit e).t0 = s.t0 := rfl
@[simp] theorem emit_rv (e : Event) : (s.emit e).rv = s.rv := rfl
@[simp] theorem emit_res (e : Event) : (s.emit e).res = s.res := rfl
@[simp] theorem emit_tSample (e : Event) : (s.emit e).tSample = s.tSample := rfl
@[simp] theorem emit_txByte (e : Event) : (s.emit e).txByte = s.txByte := rfl
@[simp] theorem emit_rxByte (e : Event) : (s.emit e).rxByte = s.rxByte := rfl
@[simp] theorem emit_bci (e : Event) : (s.emit e).bci = s.bci := rfl
@[simp] theorem emit_now (e : Event) : (s.emit e).now = s.now := rfl
@[simp] theorem emit_buf (e : Event) : (s.emit e).buf = s.buf := rfl
@[simp] theorem emit_port (e : Event) : (s.emit e).port = s.port := rfl
@[simp] theorem emit_agenda (e : Event) : (s.emit e).agenda = s.agenda := rfl
@[simp] theorem emit_trace (e : Event) : (s.emit e).trace = e :: s.trace := rfl
@[simp] theorem emit_draws (e : Event) : (s.emit e).draws = s.draws := rfl
@[simp] theorem emit_params (e : Event) : (s.emit e).params = s.params := rfl

/-! `drawn` -/

@[simp] theorem drawn_timeout : (s.drawn).timeout = s.timeout := rfl
@[simp] theorem drawn_speed : (s.drawn).speed = s.speed := rfl
@[simp] theorem drawn_pu : (s.drawn).pu = s.pu := rfl
@[simp] theorem drawn_seq : (s.drawn).seq = s.seq := rfl
@[simp] theorem drawn_ph : (s.drawn).ph = s.ph := rfl
@[simp] theorem drawn_opr : (s.drawn).opr = s.opr := rfl
@[simp] theorem drawn_adr : (s.drawn).adr = s.adr := rfl
@[simp] theorem drawn_reg : (s.drawn).reg = s.reg := rfl
@[simp] theorem drawn_cnt : (s.drawn).cnt = s.cnt := rfl
@[simp] theorem drawn_idx : (s.drawn).idx = s.idx := rfl
@[simp] theorem drawn_st : (s.drawn).st = s.st := rfl
@[simp] theorem drawn_t0 : (s.drawn).t0 = s.t0 := rfl
@[simp] theorem drawn_rv : (s.drawn).rv = s.rv := rfl
@[simp] theorem drawn_res : (s.drawn).res = s.res := rfl
@[simp] theorem drawn_tSample : (s.drawn).tSample = s.tSample := rfl
@[simp] theorem drawn_txByte : (s.drawn).txByte = s.txByte := rfl
@[simp] theorem drawn_rxByte : (s.drawn).rxByte = s.rxByte := rfl
@[simp] theorem drawn_bci : (s.drawn).bci = s.bci := rfl
@[simp] theorem drawn_now : (s.drawn).now = s.now := rfl
@[simp] theorem drawn_buf : (s.drawn).buf = s.buf := rfl
@[simp] theorem drawn_port : (s.drawn).port = s.port := rfl
@[simp] theorem drawn_agenda : (s.drawn).agenda = s.agenda := rfl
@[simp] theorem drawn_trace : (s.drawn).trace = s.trace := rfl
@[simp] theorem drawn_draws : (s.drawn).draws = s.draws + 1 := rfl
@[simp] theorem drawn_params : (s.drawn).params = s.params := rfl

/-! `atPhase` -/

@[simp] theorem atPhase_timeout (p : Phase) : (s.atPhase p).timeout = s.timeout := rfl
@[simp] theorem atPhase_speed (p : Phase) : (s.atPhase p).speed = s.speed := rfl
@[simp] theorem atPhase_pu (p : Phase) : (s.atPhase p).pu = s.pu := rfl
@[simp] theorem atPhase_seq (p : Phase) : (s.atPhase p).seq = s.seq := rfl
@[simp] theorem atPhase_ph (p : Phase) : (s.atPhase p).ph = p := rfl
@[simp] theorem atPhase_opr (p : Phase) : (s.atPhase p).opr = s.opr := rfl
@[simp] theorem atPhase_adr (p : Phase) : (s.atPhase p).adr = s.adr := rfl
@[simp] theorem atPhase_reg (p : Phase) : (s.atPhase p).reg = s.reg := rfl
@[simp] theorem atPhase_cnt (p : Phase) : (s.atPhase p).cnt = s.cnt := rfl
@[simp] theorem atPhase_idx (p : Phase) : (s.atPhase p).idx = s.idx := rfl
@[simp] theorem atPhase_st (p : Phase) : (s.atPhase p).st = s.st := rfl
@[simp] theorem atPhase_t0 (p : Phase) : (s.atPhase p).t0 = s.t0 := rfl
@[simp] theorem atPhase_rv (p : Phase) : (s.atPhase p).rv = s.rv := rfl
@[simp] theorem atPhase_res (p : Phase) : (s.atPhase p).res = s.res := rfl
@[simp] theorem atPhase_tSample (p : Phase) : (s.atPhase p).tSample = s.tSample := rfl
@[simp] theorem atPhase_txByte (p : Phase) : (s.atPhase p).txByte = s.txByte := rfl
@[simp] theorem atPhase_rxByte (p : Phase) : (s.atPhase p).rxByte = s.rxByte := rfl
@[simp] theorem atPhase_bci (p : Phase) : (s.atPhase p).bci = s.bci := rfl
@[simp] theorem atPhase_now (p : Phase) : (s.atPhase p).now = s.now := rfl
@[simp] theorem atPhase_buf (p : Phase) : (s.atPhase p).buf = s.buf := rfl
@[simp] theorem atPhase_port (p : Phase) : (s.atPhase p).port = s.port := rfl
@[simp] theorem atPhase_agenda (p : Phase) : (s.atPhase p).agenda = s.agenda := rfl
@[simp] theorem atPhase_trace (p : Phase) : (s.atPhase p).trace = s.trace := rfl
@[simp] theorem atPhase_draws (p : Phase) : (s.atPhase p).draws = s.draws := rfl
@[simp] theorem atPhase_params (p : Phase) : (s.atPhase p).params = s.params := rfl

/-! `goto` -/

@[simp] theorem goto_timeout (q : Seq) (p : Phase) : (s.goto q p).timeout = s.timeout := rfl
@[simp] theorem goto_speed (q : Seq) (p : Phase) : (s.goto q p).speed = s.speed := rfl
@[simp] theorem goto_pu (q : Seq) (p : Phase) : (s.goto q p).pu = s.pu := rfl
@[simp] theorem goto_seq (q : Seq) (p : Phase) : (s.goto q p).seq = q := rfl
@[simp] theorem goto_ph (q : Seq) (p : Phase) : (s.goto q p).ph = p := rfl
@[simp] theorem goto_opr (q : Seq) (p : Phase) : (s.goto q p).opr = s.opr := rfl
@[simp] theorem goto_adr (q : Seq) (p : Phase) : (s.goto q p).adr = s.adr := rfl
@[simp] theorem goto_reg (q : Seq) (p : Phase) : (s.goto q p).reg = s.reg := rfl
@[simp] theorem goto_cnt (q : Seq) (p : Phase) : (s.goto q p).cnt = s.cnt := rfl
@[simp] theorem goto_idx (q : Seq) (p : Phase) : (s.goto q p).idx = s.idx := rfl
@[simp] theorem goto_st (q : Seq) (p : Phase) : (s.goto q p).st = s.st := rfl
@[simp] theorem goto_t0 (q : Seq) (p : Phase) : (s.goto q p).t0 = s.t0 := rfl
@[simp] theorem goto_rv (q : Seq) (p : Phase) : (s.goto q p).rv = s.rv := rfl
@[simp] theorem goto_res (q : Seq) (p : Phase) : (s.goto q p).res = s.res := rfl
@[simp] theorem goto_tSample (q : Seq) (p : Phase) : (s.goto q p).tSample = s.tSample := rfl
@[simp] theorem goto_txByte (q : Seq) (p : Phase) : (s.goto q p).txByte = s.txByte := rfl
@[simp] theorem goto_rxByte (q : Seq) (p : Phase) : (s.goto q p).rxByte = s.rxByte := rfl
@[simp] theorem goto_bci (q : Seq) (p : Phase) : (s.goto q p).bci = s.bci := rfl
@[simp] theorem goto_now (q : Seq) (p : Phase) : (s.goto q p).now = s.now := rfl
@[simp] theorem goto_buf (q : Seq) (p : Phase) : (s.goto q p).buf = s.buf := rfl
@[simp] theorem goto_port (q : Seq) (p : Phase) : (s.goto q p).port = s.port := rfl
@[simp] theorem goto_agenda (q : Seq) (p : Phase) : (s.goto q p).agenda = s.agenda := rfl
@[simp] theorem goto_trace (q : Seq) (p : Phase) : (s.goto q p).trace = s.trace := rfl
@[simp] theorem goto_draws (q : Seq) (p : Phase) : (s.goto q p).draws = s.draws := rfl
@[simp] theorem goto_params (q : Seq) (p : Phase) : (s.goto q p).params = s.params := rfl

/-! `withBci` -/

@[simp] theorem withBci_timeout (b : Bci) : (s.withBci b).timeout = s.timeout := rfl
@[simp] theorem withBci_speed (b : Bci) : (s.withBci b).speed = s.speed := rfl
@[simp] theorem withBci_pu (b : Bci) : (s.withBci b).pu = s.pu := rfl
@[simp] theorem withBci_seq (b : Bci) : (s.withBci b).seq = s.seq := rfl
@[simp] theorem withBci_ph (b : Bci) : (s.withBci b).ph = s.ph := rfl
@[simp] theorem withBci_opr (b : Bci) : (s.withBci b).opr = s.opr := rfl
@[simp] theorem withBci_adr (b : Bci) : (s.withBci b).adr = s.adr := rfl
@[simp] theorem withBci_reg (b : Bci) : (s.withBci b).reg = s.reg := rfl
@[simp] theorem withBci_cnt (b : Bci) : (s.withBci b).cnt = s.cnt := rfl
@[simp] theorem withBci_idx (b : Bci) : (s.withBci b).idx = s.idx := rfl
@[simp] theorem withBci_st (b : Bci) : (s.withBci b).st = s.st := rfl
@[simp] theorem withBci_t0 (b : Bci) : (s.withBci b).t0 = s.t0 := rfl
@[simp] theorem withBci_rv (b : Bci) : (s.withBci b).rv = s.rv := rfl
@[simp] theorem withBci_res (b : Bci) : (s.withBci b).res = s.res := rfl
@[simp] theorem withBci_tSample (b : Bci) : (s.withBci b).tSample = s.tSample := rfl
@[simp] theorem withBci_txByte (b : Bci) : (s.withBci b).txByte = s.txByte := rfl
@[simp] theorem withBci_rxByte (b : Bci) : (s.withBci b).rxByte = s.rxByte := rfl
@[simp] theorem withBci_bci (b : Bci) : (s.withBci b).bci = b := rfl
@[simp] theorem withBci_now (b : Bci) : (s.withBci b).now = s.now := rfl
@[simp] theorem withBci_buf (b : Bci) : (s.withBci b).buf = s.buf := rfl
@[simp] theorem withBci_port (b : Bci) : (s.withBci b).port = s.port := rfl
@[simp] theorem withBci_agenda (b : Bci) : (s.withBci b).agenda = s.agenda := rfl
@[simp] theorem withBci_trace (b : Bci) : (s.withBci b).trace = s.trace := rfl
@[simp] theorem withBci_draws (b : Bci) : (s.withBci b).draws = s.draws := rfl
@[simp] theorem withBci_params (b : Bci) : (s.withBci b).params = s.params := rfl

end Sys2Proof.Machine.State
end

