-- ==== Sys2Proof/Laws/Ops.lean ====
section
/-! SUPPORT. One lemma per shared operation that says everything it can do, for proofs to cite instead of unfolding it. -/

namespace Sys2Proof.Machine

/-! ## Bits of CR -/

/-- A named bit has its own position and no other. -/
theorem getLsbD_bit (i j : BitPos) : (bit i).getLsbD j = decide (i = j) := by revert i j; decide

/-- The seven named positions are different ones (10_state.md R31). -/
theorem wf_positions {p : Config.Params} (h : p.wf = true) : p.crPositions.Nodup := by
  simp only [Config.Params.wf, Config.Params.layoutOk, Bool.and_eq_true, decide_eq_true_eq] at h
  exact h.1.2.1.1

/-- The bits of the issuing words and of W_ENABLE, one equation a bit the BCI looks at. -/
theorem word_bits {p : Config.Params} (h : p.wf = true) :
    ((wStartWord p).getLsbD p.crEn = true ∧ (wStartWord p).getLsbD p.crInt = true ∧
      (wStartWord p).getLsbD p.crSta = true ∧ (wStartWord p).getLsbD p.crSto = false ∧
      (wStartWord p).getLsbD p.crEa = false ∧ (wStartWord p).getLsbD p.crIe = false) ∧
    ((wSendWord p).getLsbD p.crEn = true ∧ (wSendWord p).getLsbD p.crInt = true ∧
      (wSendWord p).getLsbD p.crSta = false ∧ (wSendWord p).getLsbD p.crSto = false ∧
      (wSendWord p).getLsbD p.crEa = false ∧ (wSendWord p).getLsbD p.crIe = false) ∧
    ((wRackWord p).getLsbD p.crEn = true ∧ (wRackWord p).getLsbD p.crInt = true ∧
      (wRackWord p).getLsbD p.crSta = false ∧ (wRackWord p).getLsbD p.crSto = false ∧
      (wRackWord p).getLsbD p.crEa = true ∧ (wRackWord p).getLsbD p.crIe = false) ∧
    ((wStopWord p).getLsbD p.crEn = true ∧ (wStopWord p).getLsbD p.crInt = true ∧
      (wStopWord p).getLsbD p.crSta = false ∧ (wStopWord p).getLsbD p.crSto = true ∧
      (wStopWord p).getLsbD p.crEa = false ∧ (wStopWord p).getLsbD p.crIe = false) ∧
    ((wEnableWord p).getLsbD p.crEn = true ∧ (wEnableWord p).getLsbD p.crInt = false ∧
      (wEnableWord p).getLsbD p.crSta = false ∧ (wEnableWord p).getLsbD p.crSto = false ∧
      (wEnableWord p).getLsbD p.crEa = true ∧ (wEnableWord p).getLsbD p.crIe = false) := by
  have hd := wf_positions h
  simp only [Config.Params.crPositions, List.nodup_cons, List.mem_cons, List.not_mem_nil, or_false, not_or,
    not_false_eq_true, true_and] at hd
  simp only [wStartWord, wSendWord, wRackWord, wStopWord, wEnableWord, BitVec.getLsbD_or, getLsbD_bit]
  grind

/-! ## Control words on the BCI -/

namespace Bci

variable (b : Bci) {p : Config.Params} (d : Nat)

theorem crWrite_wStart (h : p.wf = true) : b.crWrite p (wStartWord p) d =
    { b with on := true, ea := false, sta := true, ie := false, int := false, evt := .start,
             evtBr := b.br, evtPs := b.ps p } := by
  obtain ⟨⟨h1, h2, h3, h4, h5, h6⟩, -⟩ := word_bits h
  simp only [crWrite, eventOf, h1, h2, h3, h4, h5, h6, if_true]
  rfl

theorem crWrite_wSend (h : p.wf = true) : b.crWrite p (wSendWord p) d =
    { b with on := true, ea := false, sta := false, ie := false, int := false, evt := b.xferEvt false,
             sto := if b.xferEvt false = .stop then true else b.sto, evtBr := b.br, evtPs := b.ps p } := by
  obtain ⟨-, ⟨h1, h2, h3, h4, h5, h6⟩, -⟩ := word_bits h
  simp only [crWrite, eventOf, h1, h2, h3, h4, h5, h6, if_true]

theorem crWrite_wRack (h : p.wf = true) : b.crWrite p (wRackWord p) d =
    { b with on := true, ea := true, sta := false, ie := false, int := false, evt := b.xferEvt true,
             sto := if b.xferEvt true = .stop then true else b.sto, evtBr := b.br, evtPs := b.ps p } := by
  obtain ⟨-, -, ⟨h1, h2, h3, h4, h5, h6⟩, -⟩ := word_bits h
  simp only [crWrite, eventOf, h1, h2, h3, h4, h5, h6, if_true]

theorem crWrite_wStop (h : p.wf = true) : b.crWrite p (wStopWord p) d =
    { b with on := true, ea := false, sta := false, ie := false, int := false, evt := .stop, sto := true,
             evtBr := b.br, evtPs := b.ps p } := by
  obtain ⟨-, -, -, ⟨h1, h2, h3, h4, h5, h6⟩, -⟩ := word_bits h
  simp only [crWrite, eventOf, h1, h2, h3, h4, h5, h6, if_true]

theorem crWrite_wEnable (h : p.wf = true) : b.crWrite p (wEnableWord p) d =
    { b with on := true, ea := true, sta := false, ie := false } := by
  obtain ⟨-, -, -, -, h1, h2, h3, h4, h5, h6⟩ := word_bits h
  simp only [crWrite, h1, h2, h3, h5, h6, if_true, Bool.false_eq_true, if_false]

theorem crWrite_wOff : b.crWrite p wOffWord d = b.disable p d := by
  simp [crWrite, wOffWord]

/-- An XFER is a send or one of the two receives, never a STOP or a START. -/
theorem xferEvt_cases (ea : Bool) :
    b.xferEvt ea = .send ∨ b.xferEvt ea = .recvAck ∨ b.xferEvt ea = .recvNack := by
  simp only [xferEvt]
  split_ifs <;> simp

theorem xferEvt_ne_stop (ea : Bool) : b.xferEvt ea ≠ .stop := by
  rcases b.xferEvt_cases ea with h | h | h <;> simp [h]

end Bci

/-- W_SEND and W_RNACK are the same word (30_encoding.md R85). -/
theorem wRnackWord_eq (p : Config.Params) : wRnackWord p = wSendWord p := rfl

/-! ## CR writes -/

/-- Everything a CR write can do. -/
theorem crWrite_next {w : Byte} {s t : State} (h : crWrite w s = .next t) :
    (controlWords s.params).contains w = true ∧ t = busWrite w s := by
  unfold crWrite at h
  split_ifs at h with hw
  exact ⟨hw, by simpa using h.symm⟩

/-- A word that disables makes a draw, any other makes none. -/
theorem busWrite_draws (w : Byte) (s : State) :
    (busWrite w s).draws = if w.getLsbD s.params.crEn then s.draws else s.draws + 1 := by
  unfold busWrite
  split_ifs <;> rfl

@[simp] theorem busWrite_bci (w : Byte) (s : State) : (busWrite w s).bci = s.bci.crWrite s.params w s.draws := by
  unfold busWrite
  split_ifs <;> rfl

@[simp] theorem busWrite_trace (w : Byte) (s : State) : (busWrite w s).trace = .crWrite w :: s.trace := by
  unfold busWrite
  split_ifs <;> rfl

/-- A CR write changes the BCI, the trace and the draw counter, and nothing else. -/
theorem busWrite_frame (w : Byte) (s : State) :
    busWrite w s = { s with bci := (busWrite w s).bci, trace := (busWrite w s).trace, draws := (busWrite w s).draws } := by
  unfold busWrite
  split_ifs <;> rfl

/-- A DR write changes the BCI, the trace and the draw counter, and nothing else. -/
theorem drWrite_frame (v : Byte) (s : State) :
    drWrite v s = { s with bci := s.bci.drWrite v s.draws, trace := .drWrite v :: s.trace,
                           draws := if s.bci.int then s.draws else s.draws + 1 } := by
  unfold drWrite
  split_ifs <;> rfl

/-! ## Sequencing of outcomes -/

theorem andThen_next {o : Host.Outcome State Fault Refusal} {f : State → State} {t : State} :
    andThen o f = .next t ↔ ∃ u, o = .next u ∧ t = f u := by
  cases o <;> simp [andThen, eq_comm]

/-! ## The step -/

/-- An empty agenda is the engine's turn. -/
theorem step_agenda_nil {s : State} (h : s.agenda = []) : step s = engineStep s := by
  simp [step, nextMove, h, stepMove]

/-- Otherwise the first move of the agenda is taken. -/
theorem step_agenda_cons {s : State} {m : Move} {rest : List Move} (h : s.agenda = m :: rest) :
    step s = stepMove m { s with agenda := rest } := by
  simp [step, nextMove, h]

/-- With no command presented the engine takes its next action. -/
theorem engineStep_port_nil {s : State} (h : s.port = []) : engineStep s = engineAction s := by
  simp [engineStep, h]

/-- Everything an engine step can do: an action of the transaction, or the acceptance of the presented command. -/
theorem engineStep_cases {s t : State} (h : engineStep s = .next t) :
    engineAction s = .next t ∨
    ∃ w rest i, s.port = w :: rest ∧ decodeCommand s.params w = .ok i ∧ accepts i s = true ∧
      exec i { s with port := rest } = .next t := by
  unfold engineStep at h
  split at h
  · exact .inl h
  · next w rest hp =>
    split at h
    · cases h
    · next i hd =>
      split_ifs at h with ha
      · exact .inr ⟨w, rest, i, hp, hd, ha, h⟩
      · exact .inl h

/-- Everything an engine action can do: a position is used, and either it writes no CR and its plain step is taken, or
its control word is executed and the position moves on. -/
theorem engineAction_cases {s t : State} (h : engineAction s = .next t) :
    positionUsed s.seq s.ph = true ∧
    ((controlWordAt s = none ∧ t = plainStep s) ∨
     ∃ w i u, controlWordAt s = some w ∧ decodeControl s.params (s.seq == .tRdata) w = .ok i ∧ exec i s = .next u ∧
       t = afterControlWord u) := by
  unfold engineAction at h
  split_ifs at h with hp
  refine ⟨hp, ?_⟩
  split at h
  · next hc => exact .inl ⟨hc, by simpa using h.symm⟩
  · next w hc =>
    split at h
    · next i hd =>
      obtain ⟨u, hu, ht⟩ := andThen_next.mp h
      exact .inr ⟨w, i, u, hc, hd, hu, ht⟩
    · cases h

/-- A word of the command port decodes to a host command, never to a control word. -/
theorem decodeCommand_isCommand {p : Config.Params} {w : CommandWord} {i : Instr} (h : decodeCommand p w = .ok i) : i.isCommand = true := by
  unfold decodeCommand at h
  split_ifs at h <;> cases h <;> rfl

/-! ## Recovery and the end of a transaction -/

/-- Entry to recovery saves nothing and changes only the position (60_exceptions.md R247). -/
theorem enterRecovery_frame (c : Cause) (s : State) : enterRecovery c s = { s with ph := .lock0 c } := rfl

/-- Every word the sequencer's ROM holds decodes, and to the instruction that writes it. -/
theorem decodeControl_of_mem {p : Config.Params} (recv : Bool) {w : Byte} (h : w ∈ controlWords p) :
    ∃ i, decodeControl p recv w = .ok i := by
  simp only [controlWords, List.mem_cons, List.not_mem_nil, or_false] at h
  unfold decodeControl
  split_ifs <;> first | exact ⟨_, rfl⟩ | skip
  exfalso
  rcases h with h | h | h | h | h | h | h <;> exact absurd h ‹_›

@[simp] theorem finishTransaction_seq (v : Byte) (s : State) : (finishTransaction v s).seq = .idle := rfl
@[simp] theorem finishTransaction_ph (v : Byte) (s : State) : (finishTransaction v s).ph = .entry := rfl
@[simp] theorem finishTransaction_res (v : Byte) (s : State) : (finishTransaction v s).res = v := rfl
@[simp] theorem finishTransaction_rv (v : Byte) (s : State) : (finishTransaction v s).rv = s.rv := rfl
@[simp] theorem finishTransaction_bci (v : Byte) (s : State) : (finishTransaction v s).bci = s.bci := rfl
@[simp] theorem finishTransaction_trace (v : Byte) (s : State) :
    (finishTransaction v s).trace = .done (commandOf s) (some v) :: s.trace := rfl

/-- A finish draws the bytes of a READ that failed, and leaves BUF alone otherwise (41_transactions.md R135). -/
theorem finishTransaction_buf (v : Byte) (s : State) :
    (finishTransaction v s).buf = bufDraw s.draws (bytesDrawn s v) s.buf := rfl

@[simp] theorem enterStep_seq (s : State) (q : Seq) : (enterStep s q).seq = q := rfl
@[simp] theorem enterStep_ph (s : State) (q : Seq) : (enterStep s q).ph = firstPhase q := rfl

/-- In READ's receive step a return goes to READ's own test (41_transactions.md R132). -/
theorem returnWith_receive (v : Byte) {s : State} (h : s.seq = .tRdata) :
    returnWith v s = afterReceive { s with rv := v } := by
  simp [returnWith, h]

/-- Everywhere else it is abort-on-nonzero (R130). -/
theorem returnWith_other (v : Byte) {s : State} (h : s.seq ≠ .tRdata) :
    returnWith v s = if v = 0#8 then continueAfter { s with rv := v } else endTransaction { s with rv := v } := by
  simp [returnWith, h]

/-- Everything a return can do: the sequencer goes on, or the transaction ends. -/
theorem returnWith_cases (v : Byte) (s : State) :
    returnWith v s = continueAfter { s with rv := v } ∨ returnWith v s = endTransaction { s with rv := v } ∨
      (s.seq = .tRdata ∧ returnWith v s = { s with rv := v }.atPhase .rdr) := by
  by_cases h1 : s.seq = .tRdata
  · rw [returnWith_receive v h1, afterReceive]
    split_ifs
    · exact .inr (.inl rfl)
    · exact .inr (.inr ⟨h1, rfl⟩)
    · exact .inr (.inl rfl)
  · rw [returnWith_other v h1]
    split_ifs
    · exact .inl rfl
    · exact .inr (.inl rfl)

/-- The mapping alters only the sentinel (41_transactions.md R134). -/
theorem mapResult_eq (rv c : Byte) :
    (rv = Config.eTimeout → mapResult rv c = c) ∧ (rv ≠ Config.eTimeout → mapResult rv c = rv) := by
  unfold mapResult
  constructor <;> intro h <;> simp [h]

end Sys2Proof.Machine
end

