-- ==== Sys2Proof/Laws/PerInstr.lean ====
section
/-! SUPPORT. The per-instruction family TableRow: the word of every well-formed instruction is the one its row of
spec/opcode_table.json gives, its match under its mask, in the default layout. -/

namespace Sys2Proof.Laws.TableRow

/-- The default layout, which the table is written in. -/
abbrev layout : Config.Params := Config.Params.default

/-- The row of the opcode table an instruction stands for, or for a control word its value (30_encoding.md R82, R85). -/
def Statement : Instr → Prop
  | .beginCmd => ∃ w, encode layout .beginCmd = .command w ∧ beginRow.covers w = true
  | .endCmd => ∃ w, encode layout .endCmd = .command w ∧ endRow.covers w = true
  | .timeoutCmd ms => ms < 65536 → ∃ w, encode layout (.timeoutCmd ms) = .command w ∧ (timeoutRow layout).covers w = true
  | .setSpeed fast => ∃ w, encode layout (.setSpeed fast) = .command w ∧ setSpeedRow.covers w = true
  | .write addr reg count => count < 256 →
    ∃ w, encode layout (.write addr reg count) = .command w ∧ (writeRow layout).covers w = true
  | .read addr reg count => count < 256 →
    ∃ w, encode layout (.read addr reg count) = .command w ∧ (readRow layout).covers w = true
  | .wStart => encode layout .wStart = .control 0xA4#8
  | .wSend => encode layout .wSend = .control 0x84#8
  | .wRack => encode layout .wRack = .control 0xC4#8
  | .wRnack => encode layout .wRnack = .control 0x84#8
  | .wStop => encode layout .wStop = .control 0x94#8
  | .wEnable => encode layout .wEnable = .control 0x44#8
  | .wOff => encode layout .wOff = .control 0x00#8

theorem beginCmd : Statement .beginCmd := ⟨_, rfl, by decide⟩

theorem endCmd : Statement .endCmd := ⟨_, rfl, by decide⟩

/-- A row covers a word when each bit under its mask is the pattern's: the goal for each of the 32 bits. -/
theorem covers_of_bits (r : OpcodeRow) (w : CommandWord)
    (h : ∀ i < 32, (w.getLsbD i && r.mask.getLsbD i) = r.pattern.getLsbD i) : r.covers w = true := by
  simp only [OpcodeRow.covers, beq_iff_eq]
  apply BitVec.eq_of_getLsbD_eq
  intro i hi
  rw [BitVec.getLsbD_and]
  exact h i hi

/-- A word in format T is covered by TIMEOUT's row: the mask leaves out MS. -/
theorem timeoutCmd (ms : Nat) : Statement (.timeoutCmd ms) := by
  intro h
  refine ⟨_, rfl, covers_of_bits _ _ fun i hi => ?_⟩
  rw [getLsbD_formatT]
  by_cases hm : i < 16
  · interval_cases i <;> simp [timeoutRow, bitsFrom, layout, Config.Params.default, Config.Params.withClock]
  · rw [testBit_field (k := 16) h (by omega)]
    interval_cases i <;> simp [timeoutRow, bitsFrom, layout, Config.Params.default, Config.Params.withClock] at hm ⊢

theorem setSpeed (fast : Bool) : Statement (.setSpeed fast) := by
  cases fast <;> exact ⟨_, rfl, by decide⟩

/-- A word in format X meets a mask that leaves out ADDR, REG and COUNT. -/
theorem formatX_bits (op : BitVec 4) (addr : SlaveAddr) (reg : Byte) {count : Nat} (h : count < 256) {i : Nat}
    (hi : i < 32) : ((formatX layout op addr reg count).getLsbD i && (bitsFrom 23).getLsbD i) =
      (decide (28 ≤ i) && op.getLsbD (i - 28)) := by
  rw [getLsbD_formatX, show layout.countW = 8 from rfl]
  by_cases hm : i < 23
  · have h28 : ¬ 28 ≤ i := by omega
    interval_cases i <;> simp [bitsFrom]
  · rw [testBit_field (k := 8) h (by omega), BitVec.getLsbD_of_ge addr _ (show 7 ≤ i - (8 + 8) by omega),
      BitVec.getLsbD_of_ge reg _ (show 8 ≤ i - 8 by omega)]
    interval_cases i <;> simp [bitsFrom] at hm ⊢

theorem write (addr : SlaveAddr) (reg : Byte) (count : Nat) : Statement (.write addr reg count) := by
  refine fun h => ⟨_, rfl, covers_of_bits _ _ fun i hi => ?_⟩
  rw [show (writeRow layout).mask = bitsFrom 23 from rfl, formatX_bits _ _ _ h hi]
  interval_cases i <;> rfl

theorem read (addr : SlaveAddr) (reg : Byte) (count : Nat) : Statement (.read addr reg count) := by
  refine fun h => ⟨_, rfl, covers_of_bits _ _ fun i hi => ?_⟩
  rw [show (readRow layout).mask = bitsFrom 23 from rfl, formatX_bits _ _ _ h hi]
  interval_cases i <;> rfl

theorem wStart : Statement .wStart := rfl
theorem wSend : Statement .wSend := rfl
theorem wRack : Statement .wRack := rfl
theorem wRnack : Statement .wRnack := rfl
theorem wStop : Statement .wStop := rfl
theorem wEnable : Statement .wEnable := rfl
theorem wOff : Statement .wOff := rfl

end Sys2Proof.Laws.TableRow
end

