-- ==== Sys2Proof/Tests/Slice0.lean ====
section
/-! SUPPORT. Own tests. Expected values come from the spec: the words of 30_encoding.md, the vectors of
95_test_vectors.md. The second half gives, for each statement with hypotheses, a concrete state that meets them. -/

namespace Sys2Proof.Tests

open Sys2Proof Sys2Proof.Machine

/-- The parameters of the tests: the defaults of R6. -/
abbrev dflt : Config.Params := Config.Params.default

/-- Another layout and other widths that R7 allows: INT and IE swapped, TIMEOUT_W 20, COUNT_W 10, BUF_SIZE 2000. -/
def other : Config.Params := { dflt with crInt := 0, crIe := 7, timeoutW := 20, countW := 10, bufSize := 2000 }

theorem test_params_wf : dflt.wf = true ∧ other.wf = true ∧ dflt.presetsDerived = true := by decide

/-- R7 refused: two equal codes (a), an unmasked one (b), a mask over 1 to 7 (c), a constant out of 1 to 7 (d), two fields of
CR in one bit, a COUNT the format has no room for, a BUF too small for COUNT. -/
theorem test_params_refused :
    ({ dflt with stArbLost := 0x50#8 }).wf = false ∧ ({ dflt with stArbLost := 0x39#8 }).wf = false ∧
    ({ dflt with srMask := 0xFC#8 }).wf = false ∧ ({ dflt with eStop := 8#8 }).wf = false ∧
    ({ dflt with crIe := 2 }).wf = false ∧ ({ dflt with countW := 14, bufSize := 20000 }).wf = false ∧
    ({ dflt with bufSize := 254 }).wf = false := by decide

/-! ## WellFormed: a term per check, which the check refuses (R81, R91) -/

theorem test_refused_timeout_cmd : (Instr.timeoutCmd 65536).wellFormed dflt = false := by decide
theorem test_refused_write_cmd : (Instr.write 0x50#7 0#8 256).wellFormed dflt = false := by decide
theorem test_refused_read_cmd : (Instr.read 0x50#7 0#8 256).wellFormed dflt = false := by decide
theorem test_refused_ms : (AsmLine.timeoutLine 65536).wellFormed dflt = false := by decide
theorem test_refused_fast : (AsmLine.setSpeedLine 2).wellFormed dflt = false := by decide
theorem test_refused_write_addr : (AsmLine.writeLine 0x80 0 0).wellFormed dflt = false := by decide
theorem test_refused_write_reg : (AsmLine.writeLine 0 0x100 0).wellFormed dflt = false := by decide
theorem test_refused_write_count : (AsmLine.writeLine 0 0 256).wellFormed dflt = false := by decide
theorem test_refused_read_addr : (AsmLine.readLine 0x80 0 0).wellFormed dflt = false := by decide
theorem test_refused_read_reg : (AsmLine.readLine 0 0x100 0).wellFormed dflt = false := by decide
theorem test_refused_read_count : (AsmLine.readLine 0 0 256).wellFormed dflt = false := by decide
theorem test_refused_buf_byte : (AsmLine.bufLine [0x12, 0x100]).wellFormed dflt = false := by decide
theorem test_refused_buf_length : (AsmLine.bufLine (List.replicate 257 0)).wellFormed dflt = false := by
  change AsmLine.bytesOk dflt (List.replicate 257 0) = false
  unfold AsmLine.bytesOk
  rw [List.length_replicate]
  rfl

/-- V-E18: `WRITE 0x80, 0, 0` is an assembly error. -/
theorem test_assembly_error : (AsmLine.writeLine 0x80 0 0).assemble dflt = none := by decide

/-- V-E3, V-E8; `.wait` encodes to nothing. -/
theorem test_assemble :
    AsmLine.noTimeoutLine.assemble dflt = some (some (.command 0x20000000#32)) ∧
    (AsmLine.writeLine 0x50 0x10 2).assemble dflt = some (some (.command 0x40501002#32)) ∧
    AsmLine.waitLine.assemble dflt = some none := by decide

/-! ## Decoding: words written out from R81, R82, R85 and V-E1 to V-E17 -/

theorem test_decode_begin : decodeCommand dflt 0b0000_0000000000000000000000000000#32 = .ok .beginCmd := by decide
theorem test_decode_end : decodeCommand dflt 0b0001_0000000000000000000000000000#32 = .ok .endCmd := by decide
theorem test_decode_timeout :
    decodeCommand dflt 0b0010_000000000000_0000000000001010#32 = .ok (.timeoutCmd 10) ∧
    decodeCommand dflt 0x2000FFFF#32 = .ok (.timeoutCmd 65535) := by decide

/-- R81 with TIMEOUT_W = 20: MS is CMD[19:0], the reserved field CMD[27:20]. -/
theorem test_decode_timeout_wide :
    decodeCommand other 0b0010_00000000_10100000000000000101#32 = .ok (.timeoutCmd 0xA0005) ∧
    decodeCommand other 0b0010_00000001_00000000000000000000#32 = .error .reservedBits := by decide
theorem test_decode_setspeed :
    decodeCommand dflt 0b0011_000000000000000000000000000_1#32 = .ok (.setSpeed true) ∧
    decodeCommand dflt 0x30000000#32 = .ok (.setSpeed false) := by decide
theorem test_decode_write :
    decodeCommand dflt 0b0100_00000_1010000_00010000_00000010#32 = .ok (.write 0x50#7 0x10#8 2) ∧
    decodeCommand dflt 0x407FFFFF#32 = .ok (.write 0x7F#7 0xFF#8 255) := by decide
theorem test_decode_read :
    decodeCommand dflt 0b0101_00000_1010000_00010000_00000010#32 = .ok (.read 0x50#7 0x10#8 2) ∧
    decodeCommand dflt 0x50000000#32 = .ok (.read 0x00#7 0x00#8 0) := by decide

/-- V-E12 to V-E17. -/
theorem test_decode_ill_formed :
    decodeCommand dflt 0x60000000#32 = .error .reservedOpcode ∧ decodeCommand dflt 0xF0000000#32 = .error .reservedOpcode ∧
    decodeCommand dflt 0x00000001#32 = .error .reservedBits ∧ decodeCommand dflt 0x20010000#32 = .error .reservedBits ∧
    decodeCommand dflt 0x30000002#32 = .error .reservedBits ∧ decodeCommand dflt 0x40800000#32 = .error .reservedBits := by
  decide

/-- R85: INT = bit 7, EA = 6, STA = 5, STO = 4, WC = 3, EN = 2, IE = 0. -/
theorem test_decode_control :
    decodeControl dflt false 0b10100100#8 = .ok .wStart ∧ decodeControl dflt false 0b10000100#8 = .ok .wSend ∧
    decodeControl dflt true 0b11000100#8 = .ok .wRack ∧ decodeControl dflt true 0b10000100#8 = .ok .wRnack ∧
    decodeControl dflt false 0b10010100#8 = .ok .wStop ∧ decodeControl dflt false 0b01000100#8 = .ok .wEnable ∧
    decodeControl dflt false 0b00000000#8 = .ok .wOff ∧ decodeControl dflt false 0b10110100#8 = .error .notAControlWord := by
  decide

theorem test_decode_table_word :
    decodeTableWord 32 0x40501002 = some (.write 0x50#7 0x10#8 2) ∧ decodeTableWord 8 0xA4 = some .wStart ∧
    decodeTableWord 8 0x84 = some .wSend ∧ decodeTableWord 32 0xF0000000 = none := by decide

/-- The encodings of SEQ and PH (10_state.md R23): the first, an inner and the last value of each. -/
theorem test_position_codes :
    Seq.code .idle = 0#4 ∧ Seq.code .tRstart = 5#4 ∧ Seq.code .tDone = 9#4 ∧
    Phase.code .entry = 0#4 ∧ Phase.code (.nstop .poll) = 7#4 ∧ Phase.code .bufw = 12#4 := by decide

/-! ## Small states -/

/-- The BCI right after reset. -/
abbrev bciReset : Bci := Bci.resetWith dflt

/-- The machine at a position, otherwise as after reset. -/
def posState (seq : Seq) (ph : Phase) : State := { State.reset with seq := seq, ph := ph }

/-- The machine at a position, with the completion flag up and status `sr` in SR. -/
def seenState (seq : Seq) (ph : Phase) (sr : Byte) : State :=
  { posState seq ph with bci := { bciReset with on := true, int := true, sr := sr } }

/-- The machine in the wait for event `e`. -/
def flightState (seq : Seq) (ph : Phase) (e : Evt) : State :=
  { posState seq ph with bci := { bciReset with on := true, evt := e, sto := e == .stop } }

/-- The same with TIMEOUT 10 sampled and `gone` ticks gone since T0. -/
def lateState (seq : Seq) (ph : Phase) (e : Evt) (gone : Nat) : State :=
  { flightState seq ph e with timeout := 10, tSample := 10, t0 := 100, now := 100 + gone }

/-- One field of the next state of an outcome. -/
def afterwards {α : Type} (o : Host.Outcome State Fault Refusal) (f : State → α) : Option α :=
  match o with
  | .next t => some (f t)
  | .fault _ => none
  | .refused _ => none

/-- The state after an outcome that is a next state. -/
theorem exists_of_afterwards {α : Type} {o : Host.Outcome State Fault Refusal} {f : State → α} {v : α}
    (h : afterwards o f = some v) : ∃ t, o = .next t ∧ f t = v := by
  cases o with
  | next t => exact ⟨t, rfl, by simpa [afterwards] using h⟩
  | fault r => simp [afterwards] at h
  | refused r => simp [afterwards] at h

/-! ## One step of each instruction -/

/-- V-L1. -/
theorem test_begin : afterwards (exec .beginCmd State.reset) (fun t => (t.pu, t.bci.br, t.bci.cr dflt, t.speed)) =
    some (true, 0x48#8, 0x44#8, false) := by decide

/-- V-L3, from the state after a BEGIN. -/
theorem test_end : afterwards (exec .endCmd
      { State.reset with pu := true, bci := { bciReset with on := true, ea := true, busHeld := true, br := 0x48#8 } })
    (fun t => (t.pu, t.bci.br, t.bci.on, t.bci.ea, t.bci.busHeld)) = some (true, 0x48#8, false, false, false) := by decide

/-- V-L4. -/
theorem test_timeout : afterwards (exec (.timeoutCmd 10) State.reset) (·.timeout) = some 10 := by decide

/-- V-L5, V-L8: accepted while busy, BR written at once. -/
theorem test_setspeed : afterwards (exec (.setSpeed true) (posState .tReg .poll)) (fun t => (t.speed, t.bci.br, t.seq)) =
    some (true, 0x0C#8, .tReg) := by decide

/-- V-L9: a BEGIN presented while a WRITE runs is held, the transaction goes on. -/
theorem test_begin_held : afterwards (step { posState .tStart .t0 with port := [0x00000000#32] })
    (fun t => (t.port, t.pu, t.ph)) = some ([0x00000000#32], false, .issue) := by decide

theorem test_write : afterwards (step { State.reset with port := [0x40501002#32] })
    (fun t => (t.opr, t.adr, t.reg, t.cnt, t.seq)) = some (false, 0x50#7, 0x10#8, 2, .tStart) := by decide

theorem test_read : afterwards (step { State.reset with port := [0x50501002#32] })
    (fun t => (t.opr, t.adr, t.reg, t.cnt, t.seq)) = some (true, 0x50#7, 0x10#8, 2, .tStart) := by decide

theorem test_w_start : afterwards (exec .wStart (seenState .tStart .issue 0xF8#8)) (fun t => (t.bci.evt, t.bci.int)) =
    some (.start, false) := by decide
theorem test_w_send : afterwards (exec .wSend (seenState .tReg .issue 0x18#8)) (fun t => (t.bci.evt, t.bci.int)) =
    some (.send, false) := by decide
theorem test_w_rack : afterwards (exec .wRack
      { posState .tRdata .issue with bci := { bciReset with on := true, mode := .receive } })
    (fun t => (t.bci.evt, t.bci.ea)) = some (.recvAck, true) := by decide
theorem test_w_rnack : afterwards (exec .wRnack
      { posState .tRdata .issue with bci := { bciReset with on := true, mode := .receive } })
    (fun t => (t.bci.evt, t.bci.ea)) = some (.recvNack, false) := by decide
theorem test_w_stop : afterwards (exec .wStop (seenState .tStop .issue 0x28#8))
    (fun t => (t.bci.evt, t.bci.sto, t.bci.int)) = some (.stop, true, false) := by decide
theorem test_w_enable : afterwards (exec .wEnable State.reset) (fun t => (t.bci.on, t.bci.ea, t.bci.evt)) =
    some (true, true, .none) := by decide
theorem test_w_off : afterwards (exec .wOff (flightState .tStart .poll .start)) (fun t => (t.bci.on, t.bci.evt)) =
    some (false, .none) := by decide

/-- R220: STA = STO = 1 in one word is none of the seven. -/
theorem test_unspecified_word : crWrite 0xB4#8 State.reset = .refused .unspecifiedControlWord := rfl

/-- The word placed runs as the next step from reset: a command at the port, a control word at its position. -/
theorem test_with_fetch_word :
    afterwards (step (State.reset.withFetchWord 32 0x2000000A)) (·.timeout) = some 10 ∧
    afterwards (step (State.reset.withFetchWord 8 0xA4)) (·.trace) = some [.crWrite 0xA4#8] ∧
    afterwards (step (State.reset.withFetchWord 8 0xC4)) (·.trace) = some [.crWrite 0xC4#8] ∧
    afterwards (step (State.reset.withFetchWord 8 0x84)) (·.trace) = some [.crWrite 0x84#8] ∧
    afterwards (step (State.reset.withFetchWord 8 0x94)) (·.trace) = some [.crWrite 0x94#8] ∧
    afterwards (step (State.reset.withFetchWord 8 0x00)) (·.trace) = some [.crWrite 0x00#8] ∧
    afterwards (step (State.reset.withFetchWord 8 0x44)) (fun t => t.trace.drop 1) = some [.crWrite 0x44#8] := by decide

/-! ## Operands and tests -/

/-- The defaults with the boundary tick MAY. -/
def mayParams : Config.Params := { dflt with timeoutAtEqual := .may }

/-- V-T1, V-T2, V-T4 to V-T6, V-T8, V-T9 (V-T3 is the draw, V-T7 is not evaluated). -/
theorem test_timed_out :
    timedOut dflt 0 105 100 5 = false ∧ timedOut dflt 0 106 100 5 = true ∧
    timedOut mayParams 0 106 100 5 = true ∧ timedOut dflt 0 3 0xFFFFFFFE 5 = false ∧
    timedOut dflt 0 4 0xFFFFFFFE 5 = true ∧ timedOut dflt 0 65536 0 65535 = true ∧
    timedOut dflt 0 500 500 1 = false := by decide

/-- R83 and the address bytes under V-E18. -/
theorem test_address_bytes : slaW 0x50#7 = 0xA0#8 ∧ slaR 0x50#7 = 0xA1#8 ∧ slaW 0x7F#7 = 0xFE#8 ∧ slaR 0x7F#7 = 0xFF#8 := by
  decide

/-- V-P3, V-P4, V-P12, V-P13, V-P20, V-P25, V-P26. -/
theorem test_arbitration :
    arbitrate dflt 0x38#8 .start = .full ∧ arbitrate dflt 0xF8#8 .start = .asIs ∧
    arbitrate dflt 0x48#8 (.sendAddr .w) = .graceful ∧ arbitrate dflt 0x40#8 (.sendAddr .w) = .full ∧
    arbitrate dflt 0x50#8 .sendByte = .full ∧ arbitrate dflt 0x58#8 (.recvByte true) = .asIs ∧
    arbitrate dflt 0x38#8 (.recvByte false) = .full := by decide

/-- V-RD7: an ACK where the last byte asked for NACK ends the READ with 0x50, in the step that reads the status (R66). -/
theorem test_unexpected_ack : afterwards (step { seenState .tRdata .eval 0x50#8 with opr := true })
    (fun t => (t.seq, t.rv, t.res)) = some (.idle, 0x50#8, 0x50#8) := by decide

/-- R66: the poll that sees STO clear is the final STOP's last step, and DONE follows in it. -/
theorem test_stop_finishes : afterwards (step { posState .tStop .poll with adr := 0x50#7, cnt := 1 })
    (fun t => (t.seq, t.res, t.trace)) = some (.idle, 0x00#8, [.done (.write 0x50#7 0#8 1) (some 0#8), .crRead]) := by decide

/-- The bytes of BUF, written and read back; writing the unlisted byte removes the cell. -/
theorem test_buf : bufGet (bufSet (bufSet [] 255 0x12#8) 0 0x34#8) 255 = 0x12#8 ∧
    bufSet (bufSet [] 255 0x12#8) 255 0x00#8 = [] := by decide

/-! ## Witnesses: for each statement with hypotheses, a concrete state and operands that meet all of them together -/

/-- The invariant from its fields' checks, for a state whose checks evaluate. -/
theorem inv_reset : Inv State.reset := by
  constructor <;> first | decide | exact .inl (by decide)

/-- A state in the wait of START. -/
theorem inv_flight : Inv (flightState .tStart .poll .start) := by
  constructor <;> first | decide | exact .inl (by decide)

/-- READ of two bytes, its first byte accepted: the position P_RDR. -/
def readState (idx : Nat) : State :=
  { seenState .tRdata .rdr 0x50#8 with opr := true, cnt := 2, idx := idx, st := 0x50#8, rv := 0x50#8 }

theorem inv_read (idx : Nat) (h : idx = 0 ∨ idx = 1) : Inv (readState idx) := by
  obtain rfl | rfl := h <;>
    constructor <;> first | decide | exact .inl (by decide)

/-- READ of one byte at P_EVAL, with a status that is not the one it requested. -/
def readFailed (sr : Byte) : State := { seenState .tRdata .eval sr with opr := true, cnt := 1 }

theorem inv_readFailed : Inv (readFailed 0x50#8) := by
  constructor <;> first | decide | exact .inl (by decide)

/-- The invariant does not hold with a START in flight at the final STOP's poll. -/
theorem test_inv_excludes : ¬ Inv (flightState .tStop .poll .start) := fun h => absurd (h.onlyStop rfl) (by decide)

theorem witness_ResetLeavesTheSpecifiedState : dflt.wf = true ∧ other.wf = true ∧
    State.reset.seq = .idle ∧ State.reset.ph = .entry := by decide

theorem witness_ResetMeetsTheInvariant : Config.Params.wf other = true := by decide

theorem witness_EveryStepKeepsTheInvariant :
    ∃ s t, Inv s ∧ step s = .next t ∧ t.trace ≠ s.trace := ⟨_, _, inv_flight, rfl, by decide⟩

/-- A held word at the port, and a tick next; a host write to the last byte of BUF. -/
theorem witness_EngineIsNeverStuck : (∃ s : State, Inv s ∧ s.port.all (commandWellFormed s.params) = true ∧
    s.ready = false ∧ ∀ m rest, s.agenda = m :: rest → (∀ r b, m ≠ .foreignWrite r b) ∧
      ∀ i, (m = .hostRead i ∨ ∃ b, m = .hostWrite i b) → s.ready = true ∧ i < s.params.bufSize) ∧
    ∃ s : State, Inv s ∧ s.port.all (commandWellFormed s.params) = true ∧ s.agenda = [.hostWrite 255 1#8] ∧
      s.ready = true ∧ 255 < s.params.bufSize := by
  refine ⟨⟨{ flightState .tStart .poll .start with port := [0x00000000#32], agenda := [.tick] }, ?_, by decide, by decide, ?_⟩,
    ⟨{ State.reset with agenda := [.hostWrite 255 1#8] }, ?_, by decide, rfl, by decide, by decide⟩⟩
  · constructor <;> first | decide | exact .inl (by decide)
  · intro m rest h
    cases h
    simp
  · constructor <;> first | decide | exact .inl (by decide)

/-- The largest operands of the default layout and of another. -/
theorem witness_DecodingAnEncodedInstructionGivesItBack :
    dflt.wf = true ∧ (Instr.write 0x7F#7 0xFF#8 255).wellFormed dflt = true ∧
    other.wf = true ∧ (Instr.read 0x7F#7 0xFF#8 1023).wellFormed other = true ∧
    (Instr.timeoutCmd 1048575).wellFormed other = true := by decide

theorem witness_CommandWordsDecodeExactlyWhenARowCovers :
    dflt.wf = true ∧ commandWellFormed dflt 0x40501002#32 = true ∧
    decodeCommand dflt 0x40501002#32 = .ok (.write 0x50#7 0x10#8 2) := by decide

theorem witness_OnlyTheSevenControlWordsAreWritten : ∃ s t : State, s.params.wf = true ∧ step s = .next t ∧
    t.trace = [.crWrite 0xA4#8] := ⟨posState .tStart .issue, _, by decide, rfl, rfl⟩

/-- A presented word. -/
def presented (w : CommandWord) : State := { State.reset with port := [w] }

/-- Each clause, at the ends of its range: V-E12 to V-E17. -/
theorem witness_IllFormedCommandWordsAreRefused :
    (nextMove (presented 0x60000000#32)).1 = .engine ∧ (presented 0x60000000#32).port = [0x60000000#32] ∧
    6 ≤ ((0x60000000#32 : CommandWord).extractLsb' 28 4).toNat ∧ 6 ≤ ((0xF0000000#32 : CommandWord).extractLsb' 28 4).toNat ∧
    ((0x18000000#32 : CommandWord).extractLsb' 28 4).toNat ≤ 1 ∧ (0x18000000#32 : CommandWord).extractLsb' 0 28 ≠ 0 ∧
    ((0x00000001#32 : CommandWord).extractLsb' 28 4).toNat ≤ 1 ∧ (0x00000001#32 : CommandWord).extractLsb' 0 28 ≠ 0 ∧
    (0x20010000#32 : CommandWord).extractLsb' 28 4 = 2#4 ∧
    (0x20010000#32 : CommandWord).extractLsb' dflt.timeoutW (28 - dflt.timeoutW) ≠ 0 ∧
    (0x30000002#32 : CommandWord).extractLsb' 28 4 = 3#4 ∧ (0x30000002#32 : CommandWord).extractLsb' 1 27 ≠ 0 ∧
    (0x40800000#32 : CommandWord).extractLsb' 28 4 = 4#4 ∧
    (0x40800000#32 : CommandWord).extractLsb' (dflt.countW + 15) (13 - dflt.countW) ≠ 0 ∧
    (0x58000000#32 : CommandWord).extractLsb' 28 4 = 5#4 ∧
    (0x58000000#32 : CommandWord).extractLsb' (dflt.countW + 15) (13 - dflt.countW) ≠ 0 := by decide

/-- A command that is accepted; a position that writes a control word, with a held command and with none. -/
theorem witness_AStepRunsTheDecodedInstruction :
    ((nextMove (presented 0x40501002#32)).1 = .engine ∧
      decodeCommand dflt 0x40501002#32 = .ok (.write 0x50#7 0x10#8 2) ∧
      accepts (.write 0x50#7 0x10#8 2) (presented 0x40501002#32) = true) ∧
    (noneAccepted (posState .tRdata .issue) ∧ positionUsed .tRdata .issue = true ∧
      controlWordAt (posState .tRdata .issue) = some 0x84#8 ∧ decodeControl dflt true 0x84#8 = .ok .wRnack) ∧
    noneAccepted { posState .tStart .issue with port := [0x10000000#32] } :=
  ⟨by decide, ⟨.inl rfl, by decide, by decide, by decide⟩, .inr ⟨_, _, .endCmd, rfl, by decide, by decide⟩⟩

theorem witness_BusyCommandsAreHeld :
    State.reset.ready = true ∧ (posState .tStart .poll).ready = false ∧ (posState .tStart .entry).ready = false ∧
    Instr.isCommand .beginCmd = true ∧ (∀ ms, Instr.beginCmd ≠ .timeoutCmd ms) ∧ ∀ f, Instr.beginCmd ≠ .setSpeed f := by
  refine ⟨by decide, by decide, by decide, by decide, ?_, ?_⟩ <;> intro x h <;> cases h

theorem witness_AcceptanceLatchesTheCommandsFields :
    (presented 0x407FFFFF#32).agenda = [] ∧ (presented 0x407FFFFF#32).ready = true ∧
    (0x407FFFFF#32 : CommandWord).extractLsb' (dflt.countW + 15) (13 - dflt.countW) = 0 ∧
    (0x407FFFFF#32 : CommandWord).extractLsb' 28 4 = 0x4#4 ∧
    (0x50000000#32 : CommandWord).extractLsb' (dflt.countW + 15) (13 - dflt.countW) = 0 ∧
    (0x50000000#32 : CommandWord).extractLsb' 28 4 = 0x5#4 := by decide

theorem witness_BeginInitialisesThePeripheral : State.reset.params.wf = true ∧ State.reset.ready = true ∧
    State.reset.params.presetsDerived = true ∧ State.reset.params.fCpu = 16000000 := by decide

theorem witness_EndDisablesThePeripheral :
    ∃ s : State, s.params.wf = true ∧ s.ready = true ∧ s.bci.on = true ∧ s.bci.busHeld = true :=
  ⟨{ State.reset with bci := { bciReset with on := true, busHeld := true } }, by decide⟩

/-- A wait with TIMEOUT 0, and one in which 11 ticks have gone when TIMEOUT 10 arrives. -/
theorem witness_TimeoutCommandWritesTimeoutOnly :
    (∃ t u, exec (.timeoutCmd 0) (flightState .tStart .poll .start) = .next t ∧ WaitsAt t .int .clock ∧
      waitComplete .int t = false ∧ engineAction t = .next u) ∧
    ∃ s t u, s.params.wf = true ∧ 10 < 2 ^ s.params.timeoutW ∧ exec (.timeoutCmd 10) s = .next t ∧
      WaitsAt t .int .clock ∧ waitComplete .int t = false ∧ engineAction t = .next u ∧ s.t0 < 2 ^ s.params.clockW ∧
      10 < (s.now + 2 ^ s.params.clockW - s.t0) % 2 ^ s.params.clockW :=
  ⟨⟨_, _, rfl, .event rfl rfl (by decide), rfl, rfl⟩,
    ⟨lateState .tStart .poll .start 11, _, _, by decide, by decide, rfl, .event rfl rfl (by decide), rfl, rfl,
      by decide, by decide⟩⟩

theorem witness_SetSpeedWritesSpeedAndDividerOnly :
    (0x0C#8 : Byte) = (if true = true then State.reset.params.brFast else State.reset.params.brSlow) ∧
    (0x48#8 : Byte) = (if false = true then State.reset.params.brFast else State.reset.params.brSlow) ∧
    State.reset.params.presetsDerived = true ∧ State.reset.params.fCpu = 16000000 := by decide

theorem witness_LifecycleCommandsFrame : State.reset.params.wf = true ∧
    (∃ t, exec .beginCmd State.reset = .next t) ∧ (∃ t, exec .endCmd State.reset = .next t) ∧
    (∃ t, exec (.timeoutCmd 1) (posState .tReg .poll) = .next t) ∧
    ∃ t, exec (.setSpeed true) (posState .tReg .poll) = .next t :=
  ⟨by decide, ⟨_, rfl⟩, ⟨_, rfl⟩, ⟨_, rfl⟩, ⟨_, rfl⟩⟩

/-- The least and the largest F_CPU, and 16 MHz. -/
theorem witness_DividerPresets :
    (16 ≤ 6400000 / 400000 ∧ (6400000 / 100000 - 16) / 2 ≤ 255) ∧ (16 ≤ 52799999 / 400000 ∧ (52799999 / 100000 - 16) / 2 ≤ 255) ∧
    16 ≤ 16000000 / 400000 ∧ (16000000 / 100000 - 16) / 2 ≤ 255 := by decide

/-- A step that changes TIMEOUT, one that changes SPEED and BR, one that changes PU. -/
theorem witness_ConfigurationChangesOnlyByItsCommands : dflt.wf = true ∧
    (∃ t, step (presented 0x2000000A#32) = .next t ∧ t.timeout ≠ 0) ∧
    (∃ t, step (presented 0x30000001#32) = .next t ∧ t.speed ≠ false ∧ t.bci.br ≠ 0#8) ∧
    ∃ t, step (presented 0x00000000#32) = .next t ∧ t.pu ≠ false := by
  refine ⟨by decide, ⟨_, rfl, by decide⟩, ⟨_, rfl, by decide⟩, ⟨_, rfl, by decide⟩⟩

theorem witness_BegunFollowsBeginAndEnd :
    State.reset.ready = true ∧ (∃ t, exec .beginCmd State.reset = .next t ∧ begun t = true) ∧
    (∃ t, exec .endCmd State.reset = .next t) ∧ (∃ t, exec .wStart State.reset = .next t) ∧
    (∃ t, engineAction (posState .tStop .poll) = .next t) ∧ ∃ t, stepMove .tick State.reset = .next t :=
  ⟨by decide, ⟨_, rfl, by decide⟩, ⟨_, rfl⟩, ⟨_, rfl⟩, ⟨_, rfl⟩, ⟨_, rfl⟩⟩

theorem witness_WriteAndReadAreAccepted : State.reset.ready = true := by decide

theorem witness_ControlWordsComplete : State.reset.params.wf = true := by decide

/-- A state that meets the invariant with ON = 0. -/
theorem witness_DisablingReleasesTheBus : Inv State.reset ∧ State.reset.bci.on = false := ⟨inv_reset, by decide⟩

theorem witness_DataWritesWithoutTheFlagMayBeLost :
    (seenState .tReg .dr 0x18#8).bci.int = true ∧ (posState .tReg .dr).bci.int = false ∧
    ∃ t, step { seenState .tReg .dr 0x18#8 with reg := 0x10#8 } = .next t ∧ t.trace = [.drWrite 0x10#8] :=
  ⟨by decide, by decide, ⟨_, rfl, rfl⟩⟩

/-- A START and a SEND in flight. -/
theorem witness_CompletionSetsTheFlagAndTheStatus : dflt.wf = true ∧
    (flightState .tStart .poll .start).bci.on = true ∧ (flightState .tStart .poll .start).bci.evt = .start ∧
    (flightState .tReg .poll .send).bci.on = true ∧ (flightState .tReg .poll .send).bci.evt = .send ∧
    (0x08#8 : Byte) &&& dflt.srMask = 0x08#8 ∧ (0xF8#8 : Byte) &&& dflt.srMask = 0xF8#8 := by decide

theorem witness_StopCompletionReleasesTheBus :
    (flightState .tStop .poll .stop).bci.on = true ∧ (flightState .tStop .poll .stop).bci.evt = .stop := by decide

/-- No event, a STOP for a completion, a START for a STOP's, the BCI off; the first index BUF does not have. -/
theorem witness_MovesThatAreNotEnabledTakeNoEffect :
    State.reset.bci.on = false ∧ (flightState .tStop .poll .stop).bci.evt = .stop ∧
    (flightState .tStart .poll .start).bci.evt ≠ .stop ∧ (seenState .tReg .eval 0x28#8).bci.evt = .none ∧
    State.reset.ready = true ∧ State.reset.params.bufSize ≤ 256 := by decide

/-- A START; an address byte with direction 1, ACKed; a transfer after it. -/
theorem witness_ReceiveModeFollowsTheAddressByte :
    (flightState .tStart .poll .start).bci.canComplete = true ∧
    (∃ s t, s.bci.canComplete = true ∧ s.bci.evt ≠ .start ∧ s.bci.mode = .address ∧ s.bci.dr.getLsbD 0 = true ∧
      stepMove (.complete 0x40#8 0xA1#8) s = .next t ∧ t.bci.mode = .receive) ∧
    ∃ s t, s.bci.canComplete = true ∧ s.bci.evt ≠ .start ∧ s.bci.mode ≠ .address ∧
      stepMove (.complete 0x58#8 0x34#8) s = .next t :=
  ⟨by decide,
    ⟨{ flightState .tAddrR .poll .send with bci := { bciReset with on := true, evt := .send, mode := .address, dr := 0xA1#8 } },
      _, by decide, by decide, by decide, by decide, rfl, by decide⟩,
    ⟨{ flightState .tRdata .poll .recvNack with bci := { bciReset with on := true, evt := .recvNack, mode := .receive } },
      _, by decide, by decide, by decide, rfl⟩⟩

/-- A tick at the top of the Time Source, and the two kinds of step that read it. -/
theorem witness_NowReadsTheTimeSource :
    (∃ s t, step s = .next t ∧ (nextMove s).1 = .tick ∧ t.now = 0) ∧
    (∃ s t : State, step s = .next t ∧ (nextMove s).1 ≠ .tick ∧ t.trace = .now 0 :: s.trace ∧ s.ph = .entry) ∧
    ∃ s t : State, step s = .next t ∧ (nextMove s).1 ≠ .tick ∧ t.trace = .now 0 :: s.trace ∧ s.ph = .t0 :=
  ⟨⟨{ State.reset with agenda := [.tick], now := 0xFFFFFFFF }, _, rfl, rfl, by decide⟩,
    ⟨posState .tStart .entry, _, rfl, by decide, rfl, rfl⟩, ⟨posState .tStart .t0, _, rfl, by decide, rfl, rfl⟩⟩

theorem witness_OtherAgentsLeaveTheEngineAlone : dflt.wf = true ∧
    (∃ t, stepMove (.complete 0x08#8 0#8) (flightState .tStart .poll .start) = .next t ∧ t.bci.int = true) ∧
    (∃ t, stepMove .tick State.reset = .next t) ∧ ∃ t, stepMove (.hostWrite 255 0xAB#8) State.reset = .next t :=
  ⟨by decide, ⟨_, rfl, by decide⟩, ⟨_, rfl⟩, ⟨_, rfl⟩⟩

theorem witness_HostAccessesBufOnlyWhileReady : 255 < State.reset.params.bufSize ∧
    State.reset.ready = true ∧ bufWf State.reset.params.bufSize State.reset.buf = true ∧
    (posState .tStart .entry).ready = false := by decide

/-- A state that meets the invariant with INT = 1, at P_EVAL. -/
theorem witness_StatusIsStableWhileTheFlagIsSet : ∃ s t, Inv s ∧ step s = .next t ∧ s.bci.int = true := by
  refine ⟨seenState .tReg .eval 0x28#8, _, ?_, rfl, rfl⟩
  constructor <;> first | decide | exact .inl (by decide)

theorem witness_T0IsSampledJustBeforeTheIssue :
    positionUsed .tStart .t0 = true ∧ positionUsed .tStop .t0 = true ∧ positionUsed .tAddrW (.nstop .t0) = true := by decide

/-- Each of the three waits, its flag seen. -/
theorem witness_CompletionWinsOverTimeout :
    (∃ s, WaitsAt s .int .clock ∧ waitComplete .int s = true) ∧
    (∃ s, WaitsAt s .sto .clock ∧ waitComplete .sto s = true) ∧
    ∃ s, WaitsAt s .sto (.nstop .clock) ∧ waitComplete .sto s = true :=
  ⟨⟨seenState .tReg .poll 0x28#8, .event rfl rfl (by decide), rfl⟩,
    ⟨posState .tStop .poll, .stop rfl rfl, rfl⟩, ⟨posState .tAddrW (.nstop .poll), .nested rfl rfl, rfl⟩⟩

/-- Each of the three waits, its event in flight, with and without a timeout. -/
theorem witness_APollThatWaitsReadsTheClockOnlyWithATimeout :
    (∃ s, WaitsAt s .int .clock ∧ waitComplete .int s = false ∧ s.timeout = 0) ∧
    (∃ s, WaitsAt s .sto .clock ∧ waitComplete .sto s = false ∧ s.timeout ≠ 0) ∧
    ∃ s, WaitsAt s .sto (.nstop .clock) ∧ waitComplete .sto s = false ∧ s.timeout ≠ 0 :=
  ⟨⟨flightState .tReg .poll .send, .event rfl rfl (by decide), rfl, rfl⟩,
    ⟨lateState .tStop .poll .stop 0, .stop rfl rfl, rfl, by decide⟩,
    ⟨lateState .tAddrW (.nstop .poll) .stop 0, .nested rfl rfl, rfl, by decide⟩⟩

theorem witness_WaitWithoutTimeoutHangs : ∃ s, WaitsAt s .int .clock ∧ waitComplete .int s = false ∧
    s.timeout = 0 ∧ s.port = [] ∧ s.agenda = [] :=
  ⟨flightState .tStart .poll .start, .event rfl rfl (by decide), rfl, rfl, rfl, rfl⟩

/-- V-T2, V-T1 (the boundary), V-T5 (the wrap) and V-T9 meet the comparisons. -/
theorem witness_TimeoutTestIsStrictAndModular :
    (106 + 2 ^ dflt.clockW - 100) % 2 ^ dflt.clockW > 5 ∧ (105 + 2 ^ dflt.clockW - 100) % 2 ^ dflt.clockW = 5 ∧
    (3 + 2 ^ dflt.clockW - 0xFFFFFFFE) % 2 ^ dflt.clockW = 5 ∧ 0xFFFFFFFE < 2 ^ dflt.clockW ∧
    (500 + 2 ^ dflt.clockW - 500) % 2 ^ dflt.clockW < 1 ∧ mayParams.timeoutAtEqual = .may := by decide

/-- The event has completed since the poll (V-P33), at the first tick past the timeout. -/
theorem witness_ALateCompletionLosesToTheTimeout : ∃ s : State, s.params.wf = true ∧ s.ph = .clock ∧
    positionUsed s.seq .clock = true ∧ clockExpired s = true ∧ s.port = [] ∧ s.agenda = [] ∧ s.bci.int = true :=
  ⟨{ seenState .tStart .clock 0x08#8 with tSample := 10, t0 := 100, now := 111 },
    by decide, by decide, by decide, by decide, by decide, by decide, by decide⟩

theorem witness_ATimeoutIsReportedAsItsPhaseConstant : ∃ s, s.params.wf = true ∧ WaitsAt s .sto .clock ∧
    waitComplete .sto s = false ∧ s.timeout ≠ 0 ∧ s.t0 < 2 ^ s.params.clockW ∧
    s.timeout < (s.now + 2 ^ s.params.clockW - s.t0) % 2 ^ s.params.clockW ∧ s.port = [] ∧ s.agenda = [] ∧ s.seq = .tStop :=
  ⟨lateState .tStop .poll .stop 11, by decide, .stop rfl rfl, rfl, by decide, by decide, by decide, rfl, rfl, rfl⟩

/-- With two ticks left, and with none, in a primitive's wait and in a nested one. -/
theorem witness_ATimeoutFiresAtTheFirstTickPastIt :
    (∃ s, s.params.wf = true ∧ WaitsAt s .int .clock ∧ waitComplete .int s = false ∧ s.port = [] ∧
      s.params.timeoutAtEqual = .never ∧ s.timeout ≠ 0 ∧ s.now < 2 ^ s.params.clockW ∧ s.t0 < 2 ^ s.params.clockW ∧
      s.timeout + 1 < 2 ^ s.params.clockW ∧ (s.now + 2 ^ s.params.clockW - s.t0) % 2 ^ s.params.clockW + 2 = s.timeout) ∧
    ∃ s, s.params.wf = true ∧ WaitsAt s .sto (.nstop .clock) ∧ waitComplete .sto s = false ∧ s.port = [] ∧
      s.params.timeoutAtEqual = .never ∧ s.timeout ≠ 0 ∧ s.now < 2 ^ s.params.clockW ∧ s.t0 < 2 ^ s.params.clockW ∧
      s.timeout + 1 < 2 ^ s.params.clockW ∧ (s.now + 2 ^ s.params.clockW - s.t0) % 2 ^ s.params.clockW + 0 = s.timeout :=
  ⟨⟨lateState .tStart .poll .start 8, by decide, .event rfl rfl (by decide), rfl, rfl, rfl, by decide, by decide,
      by decide, by decide, by decide⟩,
    ⟨lateState .tAddrW (.nstop .poll) .stop 10, by decide, .nested rfl rfl, rfl, rfl, rfl, by decide, by decide,
      by decide, by decide, by decide⟩⟩

theorem witness_LockupReleasesTheBusAndReenables : dflt.wf = true ∧
    positionUsed .tStart (.lock0 .timedOut) = true ∧ positionUsed .tReg (.lock0 .status) = true ∧
    positionUsed .tStop (.lock0 .timedOut) = true ∧ positionUsed .tAddrW (.nstop .lock0) = true := by decide

/-- The three entries to recovery, a step that writes each of its words, and BEGIN and END. -/
theorem witness_RecoveryIsEnteredOnlyWhereTheTableSaysFull : dflt.wf = true ∧
    (∃ t, step (lateState .tStart .clock .start 11) = .next t ∧ t.ph = .lock0 .timedOut) ∧
    (∃ t, step (seenState .tStart .eval 0x38#8) = .next t ∧ t.ph = .lock0 .status) ∧
    (∃ t, step (lateState .tAddrW (.nstop .clock) .stop 11) = .next t ∧ t.ph = .nstop .lock0) ∧
    (∃ t, step (flightState .tStart (.lock0 .timedOut) .start) = .next t ∧ 0x00#8 ∈ crWords t.trace) ∧
    (∃ t, step (posState .tStart (.lock1 .timedOut)) = .next t ∧ wEnableWord dflt ∈ crWords t.trace) ∧
    accepts .beginCmd State.reset = true ∧ ∃ t, exec .beginCmd State.reset = .next t ∧ t.ph = .entry :=
  ⟨by decide, ⟨_, rfl, rfl⟩, ⟨_, rfl, rfl⟩, ⟨_, rfl, rfl⟩, ⟨_, rfl, by decide⟩, ⟨_, rfl, by decide⟩, by decide, ⟨_, rfl, rfl⟩⟩

/-- A state for each row: START, SEND_ADDR of both directions, SEND_BYTE, RECV_BYTE at P_EVAL, an expired clock, STOP. -/
theorem witness_RecoveryFollowsTheArbitrationTable : dflt.wf = true ∧
    (0x38#8 : Byte) = (seenState .tStart .eval 0x38#8).bci.sr &&& dflt.srMask ∧
    (0x18#8 : Byte) = dflt.stMtSlaAck ∧ (0x40#8 : Byte) = dflt.stMrSlaAck ∧
    (0x30#8 : Byte) = (seenState .tWdata .eval 0x30#8).bci.sr &&& dflt.srMask ∧
    (0x50#8 : Byte) = (seenState .tRdata .eval 0x50#8).bci.sr &&& dflt.srMask ∧
    positionUsed .tStart .clock = true ∧ clockExpired (lateState .tStart .clock .start 11) = true ∧
    (posState .tStop .poll).bci.sto = false := by decide

theorem witness_TheGracefulStopReturnsTheNack : dflt.wf = true ∧
    (posState .tAddrW (.nstop .poll)).port = [] ∧ (posState .tAddrW (.nstop .poll)).agenda = [] ∧
    positionUsed .tAddrW (.nstop .poll) = true ∧ (posState .tAddrW (.nstop .poll)).bci.sto = false ∧
    positionUsed .tAddrW (.nstop .clock) = true ∧ clockExpired (lateState .tAddrW (.nstop .clock) .stop 11) = true ∧
    (0x20#8 : Byte) ≠ 0#8 ∧ (0x20#8 : Byte) ≠ 1#8 := by decide

/-- V-W10: a WRITE that loses arbitration at its START, up to its DONE. -/
def lostMoves : List Move := [.engine, .engine, .complete 0x38#8 0#8, .engine, .engine, .engine, .engine]

theorem witness_ATransactionRunsAtMostOneLockup :
    ∃ s1, State.reset.params.wf = true ∧ State.reset.ready = true ∧
      exec (.write 0x50#7 0x10#8 0) State.reset = .next s1 ∧ s1.trace = [] ∧ lostMoves.all (noZeroStatus dflt) = true ∧
      ∃ t, runMoves lostMoves s1 = .next t ∧
        (t.trace.tail.all (fun e => !transactionDone e), (crWords t.trace).count wOffWord, t.seq, t.res) =
          (true, 1, .idle, 0x38#8) :=
  ⟨accept false 0x50#7 0x10#8 0 State.reset, by decide, rfl, rfl, rfl, by decide, exists_of_afterwards (by decide +kernel)⟩

/-- The last RECV_BYTE of n' = 1 (CNT = 0), the first of n' = 2. -/
theorem witness_EachStepIssuesItsControlWord : dflt.wf = true ∧
    ¬ 0 + 1 < (if (0 : Nat) = 0 then 1 else 0) ∧ 0 + 1 < (if (2 : Nat) = 0 then 1 else 2) ∧
    positionUsed .tReg (.nstop .issue) = true := by decide

theorem witness_TheByteToSendGoesToTheDataRegister :
    (seenState .tWdata .buf 0x28#8).ph = .buf ∧ (seenState .tAddrR .dr 0x10#8).bci.int = true ∧
    (posState .tAddrR .dr).bci.int = false ∧ (0xA1#8 : Byte) = (0x50#7 : SlaveAddr).setWidth 8 <<< 1 ||| 1#8 := by decide

/-- A payload loop with bytes to come, a value to abort with. -/
theorem witness_TheSequencerContinuesOnZeroAndAbortsOtherwise :
    (posState .tWdata .eval).seq = .tWdata ∧ (1#8 : Byte) ≠ 0#8 ∧ (posState .tReg (.lock1 .timedOut)).seq ≠ .tRdata := by
  decide

theorem witness_ReadAcceptsOnlyTheRequestedStatus : dflt.wf = true ∧
    (0x58#8 : Byte) = (readFailed 0x58#8).bci.sr &&& dflt.srMask ∧ (0x58#8 : Byte) ≠ dflt.stArbLost ∧
    (0x58#8 : Byte) = dflt.stMrDataNack ∧ (0x50#8 : Byte) ≠ dflt.stMrDataNack := by decide

/-- V-RD9. -/
theorem witness_ReadReportsLostArbitration : (readFailed 0x38#8).params.wf = true ∧ (readFailed 0x38#8).seq = .tRdata ∧
    (readFailed 0x38#8).ph = .eval ∧ (readFailed 0x38#8).bci.sr &&& dflt.srMask = dflt.stArbLost ∧
    (readFailed 0x38#8).port = [] ∧ (readFailed 0x38#8).agenda = [] := by decide

/-- A byte with more to come, and the last. -/
theorem witness_ReadStoresTheAcceptedByte : (Inv (readState 0) ∧ (readState 0).ph = .rdr) ∧
    Inv (readState 1) ∧ (readState 1).ph = .rdr := ⟨⟨inv_read _ (.inl rfl), rfl⟩, inv_read _ (.inr rfl), rfl⟩

/-- A READ that fails with n' = 1, its result nonzero. -/
theorem witness_FinishReportsTheResult : ∃ t, Inv (readFailed 0x50#8) ∧ (readFailed 0x50#8).seq ≠ .idle ∧
    engineAction (readFailed 0x50#8) = .next t ∧ t.seq = .idle ∧ (readFailed 0x50#8).opr = true ∧ t.res ≠ 0#8 :=
  ⟨_, inv_readFailed, by decide, rfl, by decide, by decide, by decide⟩

theorem witness_TransactionsLeaveTheRestOfBufAlone :
    (∃ s t, Inv s ∧ engineAction s = .next t ∧ s.opr = false) ∧ ∃ s t, Inv s ∧ engineAction s = .next t ∧ s.opr = true :=
  ⟨⟨_, _, inv_flight, rfl, rfl⟩, ⟨_, _, inv_read 0 (.inl rfl), rfl, rfl⟩⟩

theorem witness_ResultChangesOnlyAtFinish :
    ∃ t : State, step (readFailed 0x50#8) = .next t ∧ t.res ≠ (readFailed 0x50#8).res := ⟨_, rfl, by decide⟩

theorem witness_EngineTakesOneActionAtATime :
    (∃ t, engineAction (posState .tStart .issue) = .next t) ∧ (∃ t, engineAction (posState .tStop .poll) = .next t) ∧
    ∃ t, stepMove .stopDone (flightState .tStop .poll .stop) = .next t := ⟨⟨_, rfl⟩, ⟨_, rfl⟩, ⟨_, rfl⟩⟩

/-- The moves of a WRITE without payload, up to its DONE: START, address, register byte, STOP. -/
def goodMoves : List Move :=
  [.engine, .engine, .complete 0x08#8 0#8, .engine, .engine,
   .engine, .engine, .engine, .complete 0x18#8 0xA0#8, .engine, .engine,
   .engine, .engine, .engine, .complete 0x28#8 0x10#8, .engine, .engine,
   .engine, .engine, .stopDone, .engine]

/-- A successful WRITE of no payload. -/
theorem witness_SuccessfulTransactionsFollowThePhaseOrder :
    ∃ s1, State.reset.params.wf = true ∧ State.reset.ready = true ∧ goodMoves.all (noZeroStatus dflt) = true ∧
      exec (.write 0x50#7 0x10#8 0) State.reset = .next s1 ∧ s1.trace = [] ∧
      ∃ t, runMoves goodMoves s1 = .next t ∧
        (t.trace.head?, t.trace.tail.all (fun e => !transactionDone e), t.seq) =
          (some (.done (.write 0x50#7 0x10#8 0) (some 0#8)), true, .idle) :=
  ⟨accept false 0x50#7 0x10#8 0 State.reset, by decide, rfl, by decide, rfl, rfl, exists_of_afterwards (by decide +kernel)⟩

/-- MOCK(0x50) with M all zero. -/
def mock : Mock := { addr := 0x50#7, mem := [], ptr := 0#8, fresh := false }

/-- After a BEGIN. -/
def begunState : State :=
  { State.reset with
    pu := true, bci := { bciReset with on := true, ea := true, br := 0x48#8 }, trace := [.done .beginCmd none] }

theorem inv_begun : Inv begunState := by
  constructor <;> first | decide | exact .inl (by decide)

theorem witness_WriteReachesTheReferenceSlave :
    ∃ s1, Inv begunState ∧ begun begunState = true ∧ begunState.ready = true ∧ begunState.port = [] ∧
      bufWf 256 mock.mem = true ∧ 255 < 2 ^ begunState.params.countW ∧
      exec (.write mock.addr 0x10#8 255) begunState = .next s1 :=
  ⟨_, inv_begun, by decide, by decide, by decide, by decide, by decide, rfl⟩

/-- V-RD2: CNT = 0. -/
theorem witness_ReadFetchesFromTheReferenceSlave :
    ∃ s1, Inv begunState ∧ begun begunState = true ∧ begunState.ready = true ∧ begunState.port = [] ∧
      0 < 2 ^ begunState.params.countW ∧ exec (.read mock.addr 0x10#8 0) begunState = .next s1 :=
  ⟨_, inv_begun, by decide, by decide, by decide, by decide, rfl⟩

theorem witness_ReadGivesBackWhatWriteWrote :
    ∃ s1, Inv begunState ∧ begun begunState = true ∧ begunState.ready = true ∧ begunState.port = [] ∧
      bufWf 256 mock.mem = true ∧ 255 < 2 ^ begunState.params.countW ∧ 255 ≠ 0 ∧ 255 ≤ 256 ∧
      exec (.write mock.addr 0x10#8 255) begunState = .next s1 :=
  ⟨_, inv_begun, by decide, by decide, by decide, by decide, by decide, by decide, by decide, rfl⟩

end Sys2Proof.Tests
end

/-! # Proofs: every step of every agent keeps the invariant

`Inv` speaks of registers, of the position and of the BCI's event. The rules below are one per way a step changes the
state: fields `Inv` does not read, the position inside a primitive (with or without an event in flight), the entry to a
transaction step, a CR write. Each step of the model is then a composition of them. -/

namespace Sys2Proof.Machine

/-! ## Positions -/

/-- The moves of PH inside one primitive that are possible wherever their first phase is (42_phases.md R160 to R170). -/
def phaseEdges : List (Phase × Phase) :=
  [(.buf, .dr), (.dr, .t0), (.t0, .issue), (.issue, .poll), (.poll, .clock), (.clock, .poll), (.rdr, .bufw),
   (.clock, .lock0 .timedOut), (.lock0 .timedOut, .lock1 .timedOut), (.eval, .lock0 .status),
   (.lock0 .status, .lock1 .status), (.nstop .t0, .nstop .issue), (.nstop .issue, .nstop .poll),
   (.nstop .poll, .nstop .clock), (.nstop .clock, .nstop .poll), (.nstop .clock, .nstop .lock0),
   (.nstop .lock0, .nstop .lock1)]

theorem positionUsed_of_phaseEdge (q : Seq) :
    ∀ e ∈ phaseEdges, positionUsed q e.1 = true → positionUsed q e.2 = true := by
  cases q <;> decide

theorem positionUsed_eval {q : Seq} (hq : q ≠ .tStop) (h : positionUsed q .poll = true) :
    positionUsed q .eval = true := by
  cases q <;> simp_all [positionUsed, waitPhases]

theorem positionUsed_bufw {q : Seq} (h : positionUsed q .bufw = true) : q = .tRdata := by
  revert h
  cases q <;> decide

/-- Only a NACKed send is followed by a graceful STOP (43_recovery.md R201). -/
theorem arbitrate_graceful {p : Config.Params} {st : Byte} {prim : Primitive}
    (h : arbitrate p st prim = .graceful) : (∃ dir, prim = .sendAddr dir) ∨ prim = .sendByte := by
  cases prim with
  | sendAddr dir => exact .inl ⟨dir, rfl⟩
  | sendByte => exact .inr rfl
  | start | recvByte ack => unfold arbitrate at h; split_ifs at h
  | stop => cases h

/-- The nested STOP stands in the primitives that send a byte (42_phases.md R170). -/
theorem positionUsed_nstop {s : State} {prim : Primitive} (hs : primitiveOf s = some prim)
    (hp : (∃ dir, prim = .sendAddr dir) ∨ prim = .sendByte) (sub : StopStep) :
    positionUsed s.seq (.nstop sub) = true := by
  unfold primitiveOf at hs
  obtain ⟨dir, rfl⟩ | rfl := hp <;> split at hs <;> cases hs <;> simp [*, positionUsed]

theorem primitiveOf_stop {s : State} {prim : Primitive} (hs : primitiveOf s = some prim) :
    prim = .stop ↔ s.seq = .tStop := by
  unfold primitiveOf at hs
  split at hs <;> cases hs <;> simp [*]

/-! ## What the parameters and the result spaces allow -/

theorem wf_widths {p : Config.Params} (h : p.wf = true) :
    1 ≤ p.countW ∧ 2 ^ p.countW - 1 ≤ p.bufSize := by
  simp only [Config.Params.wf, Config.Params.widthsOk, Bool.and_eq_true, decide_eq_true_eq] at h
  obtain ⟨-, -, ⟨h1, -⟩, h2⟩ := h
  exact ⟨h1, h2⟩

/-- The byte count of a receive is at least one and fits BUF (41_transactions.md R132, 20_memory.md R60). -/
theorem recvCount_bounds {p : Config.Params} {cnt : Nat} (h : p.wf = true) (hc : cnt < 2 ^ p.countW) :
    0 < recvCount cnt ∧ recvCount cnt ≤ p.bufSize := by
  obtain ⟨h1, h2⟩ := wf_widths h
  have h3 : 2 ^ 1 ≤ 2 ^ p.countW := Nat.pow_le_pow_right (by omega) h1
  unfold recvCount
  split_ifs <;> omega

theorem masked_masked (v m : Byte) : v &&& m &&& m = v &&& m := by rw [BitVec.and_assoc, BitVec.and_self]

theorem returnSpace_zero (p : Config.Params) : returnSpace p 0#8 := .inl BitVec.zero_and

theorem phaseConstant_mem (p : Config.Params) (q : Seq) :
    phaseConstant p q = Config.eTimeout ∨ phaseConstant p q ∈ p.phaseConstants := by
  cases q <;> simp [phaseConstant, Config.Params.phaseConstants]

/-- Mapping a return value gives a result value (41_transactions.md R134). -/
theorem resultSpace_mapResult {p : Config.Params} {v : Byte} (h : returnSpace p v) (q : Seq) :
    resultSpace p (mapResult v (phaseConstant p q)) := by
  obtain ⟨hmap, hkeep⟩ := mapResult_eq v (phaseConstant p q)
  by_cases hv : v = Config.eTimeout
  · rw [hmap hv]
    exact .inr (phaseConstant_mem p q)
  · rw [hkeep hv]
    exact .inl (h.resolve_right hv)

/-- The operands of a decoded command fit their fields (30_encoding.md R83). -/
theorem decodeCommand_wellFormed {p : Config.Params} {w : CommandWord} {i : Instr} (h : decodeCommand p w = .ok i) :
    i.wellFormed p = true := by
  unfold decodeCommand at h
  split_ifs at h <;> cases h
  · rfl
  · rfl
  · exact decide_eq_true (BitVec.isLt _)
  · rfl
  · exact decide_eq_true (BitVec.isLt _)
  · exact decide_eq_true (BitVec.isLt _)

theorem waitComplete_int (s : State) : waitComplete .int s = s.bci.int := by
  simp [waitComplete, crReadBit]

/-- A host access that is not refused has its effect, at an index of BUF (20_memory.md R70, R60). -/
theorem hostAccess_next {s t : State} {i : Nat} {f : State → State} (h : hostAccess i f s = .next t) :
    i < s.params.bufSize ∧ t = f s := by
  unfold hostAccess at h
  split_ifs at h with _ hi
  cases h
  exact ⟨hi, rfl⟩

/-! ## Steps that move no event -/

namespace Inv

variable {s : State}

theorem emit (h : Inv s) (e : Event) : Inv (s.emit e) := { h with }

theorem drawn (h : Inv s) : Inv s.drawn := { h with }

theorem pollAction (h : Inv s) : Inv (pollAction s) :=
  { h with timeoutRange := ⟨h.timeoutRange.1, h.timeoutRange.1⟩ }

theorem clockAction (h : Inv s) : Inv (clockAction s) := (h.emit _).drawn

theorem sampleT0 (h : Inv s) : Inv (sampleT0 s) :=
  { h with clockRange := ⟨h.clockRange.1, h.clockRange.1⟩ }

theorem latchStatus (h : Inv s) : Inv (latchStatus s) :=
  { h with statusMasked := masked_masked s.bci.sr s.params.srMask }

theorem withRv (h : Inv s) {v : Byte} (hv : returnSpace s.params v) : Inv { s with rv := v } :=
  { h with rvSpace := hv }

theorem brWrite (h : Inv s) (v : Byte) : Inv (brWrite v s) := { h with }

theorem drWrite (h : Inv s) (v : Byte) : Inv (drWrite v s) := by
  rw [drWrite_frame]
  unfold Bci.drWrite
  split_ifs <;> exact { h with }

/-- The byte READ stores is inside BUF (41_transactions.md R132). -/
theorem bufWrite_recvIndex (h : Inv s) (hq : s.seq = .tRdata) (v : Byte) : Inv (bufWrite (recvIndex s) v s) := by
  have hc := recvCount_bounds h.paramsWf h.countRange.1
  have hi := h.idxReceive hq
  have hlt : recvIndex s < s.params.bufSize := by
    unfold recvIndex
    split_ifs <;> omega
  exact { h with bufCanonical := bufSet_wf h.bufCanonical v hlt }

/-! ## The event and the position -/

/-- Outside the waits no event is in flight (42_phases.md R164). -/
theorem noEvent (h : Inv s) {a : Phase} (hp : s.ph = a) (ha : waitingPhase a = false := by rfl) :
    s.bci.evt = .none := by
  by_contra he
  exact absurd (h.waitForEvent he) (by simp [hp, ha])

/-- STO clear in a STOP's wait means that the STOP is done. -/
theorem noEvent_of_stopDone (h : Inv s) (hr : stopRunning s = true) (hs : s.bci.sto = false) : s.bci.evt = .none :=
  (h.onlyStop hr).resolve_right fun he => absurd (h.stoStop.mpr he) (by simp [hs])

theorem waitComplete_sto (h : Inv s) : waitComplete .sto s = !s.bci.sto := by
  have hd := wf_positions h.paramsWf
  have hne : s.params.crSto ≠ s.params.crInt := by
    intro he
    simp [Config.Params.crPositions, he] at hd
  simp [waitComplete, crReadBit, hne]

/-- A change of the BCI that leaves no event in flight. -/
theorem withBci_noEvent (h : Inv s) {b : Bci} (he : b.evt = .none) (hs : b.sto = false) (hie : b.ie = false)
    (hint : s.ph = .eval → b.int = true) : Inv (s.withBci b) :=
  { h with
    onForEvent := fun hn => absurd he hn
    waitForEvent := fun hn => absurd he hn
    intNoEvent := fun _ => he
    stoStop := by simp [he, hs]
    stopWait := fun hn => absurd (he.symm.trans hn) (by decide)
    onlyStop := fun _ => .inl he
    evalInt := hint
    ieClear := hie }

/-- A move inside the primitive with no event in flight. -/
theorem atPhase_quiet (h : Inv s) {ph : Phase} (hp : positionUsed s.seq ph = true) (hq : s.bci.evt = .none)
    (he : ph = .eval → s.bci.int = true) : Inv (s.atPhase ph) :=
  { h with
    position := hp
    waitForEvent := fun hn => absurd hq hn
    stopWait := fun hs => by simp [hq] at hs
    onlyStop := fun _ => .inl hq
    evalInt := he }

/-- A move along an edge with no event in flight. -/
theorem atPhase_edge (h : Inv s) {a b : Phase} (ha : s.ph = a) (hq : s.bci.evt = .none)
    (hab : (a, b) ∈ phaseEdges := by decide) (hb : b ≠ .eval := by decide) : Inv (s.atPhase b) :=
  h.atPhase_quiet (positionUsed_of_phaseEdge _ _ hab (ha ▸ h.position)) hq fun he => absurd he hb

/-- A move inside a wait, whatever is in flight. -/
theorem atPhase_wait (h : Inv s) {a b : Phase} (ha : s.ph = a) (hr : stopRunning (s.atPhase b) = stopRunning s)
    (hab : (a, b) ∈ phaseEdges := by decide) (hb : waitingPhase b = true := by decide) : Inv (s.atPhase b) :=
  { h with
    position := positionUsed_of_phaseEdge _ _ hab (ha ▸ h.position)
    waitForEvent := fun _ => hb
    stopWait := fun hs => hr ▸ h.stopWait hs
    onlyStop := fun hs => h.onlyStop (hr ▸ hs)
    evalInt := by rintro rfl; cases hb }

end Inv

/-! ## Transaction steps -/

/-- What a transaction step takes for granted of the latched operands when it is entered (10_state.md R23, R25). -/
def stepReady (s : State) : Seq → Prop
  | .idle => True
  | .tStart => True
  | .tAddrW => True
  | .tReg => True
  | .tWdata => s.opr = false ∧ s.idx < s.cnt
  | .tRstart => s.opr = true
  | .tAddrR => s.opr = true
  | .tRdata => s.opr = true ∧ s.idx < recvCount s.cnt
  | .tStop => True
  | .tDone => False

namespace Inv

variable {s : State}

/-- Going to a transaction step, or back to IDLE, with no event in flight; OPR, CNT and IDX may be set on the way. -/
theorem goto_quiet (h : Inv s) (hq : s.bci.evt = .none) {opr : Bool} {cnt idx : Nat}
    (hc : cnt < 2 ^ s.params.countW) (hi : idx < 2 ^ s.params.countW) {q : Seq} {ph : Phase}
    (hr : stepReady { s with opr := opr, cnt := cnt, idx := idx } q) (hp : positionUsed q ph = true)
    (hne : ph ≠ .eval) : Inv ({ s with opr := opr, cnt := cnt, idx := idx }.goto q ph) :=
  { h with
    countRange := ⟨hc, hi⟩
    position := hp
    notDone := by rintro rfl; exact hr
    idxPayload := by rintro rfl; exact hr.2
    idxReceive := by rintro rfl; exact hr.2
    writeSteps := by rintro rfl; exact hr.1
    readSteps := by
      rintro (rfl | rfl | rfl)
      · exact hr
      · exact hr
      · exact hr.1
    waitForEvent := fun hn => absurd hq hn
    stopWait := fun hs => absurd (hq.symm.trans hs) (by decide)
    onlyStop := fun _ => .inl hq
    evalInt := fun he => absurd he hne }

/-- Entering a transaction step at its first phase, IDX set on the way. -/
theorem enterStep_idx (h : Inv s) (hq : s.bci.evt = .none) {n : Nat} (hn : n < 2 ^ s.params.countW) {q : Seq}
    (hr : stepReady { s with idx := n } q) : Inv (enterStep { s with idx := n } q) :=
  h.goto_quiet hq h.countRange.1 hn hr (by cases q <;> rfl) (by cases q <;> decide)

theorem enterStep (h : Inv s) (hq : s.bci.evt = .none) {q : Seq} (hr : stepReady s q) : Inv (enterStep s q) :=
  h.enterStep_idx hq h.countRange.2 hr

theorem payloadLoop_idx (h : Inv s) (hq : s.bci.evt = .none) (ho : s.opr = false) {n : Nat}
    (hn : n < 2 ^ s.params.countW) : Inv (payloadLoop { s with idx := n }) := by
  unfold payloadLoop
  split_ifs with hlt
  · exact h.enterStep_idx hq hn ⟨ho, hlt⟩
  · exact h.enterStep_idx hq hn trivial

/-- The end of a transaction, with no event in flight (40_lifecycle.md R110, 41_transactions.md R135). -/
theorem finishTransaction (h : Inv s) (hq : s.bci.evt = .none) {v : Byte} (hv : resultSpace s.params v) :
    Inv (finishTransaction v s) := by
  have hb : bytesDrawn s v ≤ s.params.bufSize := by
    have := recvCount_bounds h.paramsWf h.countRange.1
    unfold bytesDrawn
    split_ifs <;> omega
  have ht : Inv { s with res := v, buf := bufDraw s.draws (bytesDrawn s v) s.buf } :=
    { h with bufCanonical := bufDraw_wf h.bufCanonical s.draws hb, resSpace := hv }
  exact { ht.goto_quiet hq h.countRange.1 h.countRange.2 (q := .idle) trivial rfl (ph := .entry) nofun with }

theorem endTransaction (h : Inv s) (hq : s.bci.evt = .none) : Inv (endTransaction s) :=
  h.finishTransaction hq (resultSpace_mapResult h.rvSpace _)

/-- What follows a primitive that returned 0 (41_transactions.md R130 to R132). -/
theorem continueAfter (h : Inv s) (hq : s.bci.evt = .none) : Inv (continueAfter s) := by
  unfold Machine.continueAfter
  split
  case h_1 => exact h.enterStep hq trivial
  case h_2 => exact h.enterStep hq trivial
  case h_3 =>
    split_ifs with ho
    · exact h.enterStep hq ho
    · exact h.payloadLoop_idx hq (by simpa using ho) (Nat.two_pow_pos _)
  case h_4 hs =>
    exact h.payloadLoop_idx hq (h.writeSteps hs) (lt_of_le_of_lt (h.idxPayload hs) h.countRange.1)
  case h_5 hs => exact h.enterStep hq (h.readSteps (.inl hs))
  case h_6 hs =>
    exact h.enterStep_idx hq (Nat.two_pow_pos _)
      ⟨h.readSteps (.inr (.inl hs)), (recvCount_bounds h.paramsWf h.countRange.1).1⟩
  case h_7 => exact h.endTransaction hq
  case h_8 => exact h.endTransaction hq
  case h_9 => exact h
  case h_10 => exact h

/-- The return of a primitive, with no event in flight. -/
theorem returnWith (h : Inv s) (hq : s.bci.evt = .none) {v : Byte} (hv : returnSpace s.params v) :
    Inv (returnWith v s) := by
  have ht := h.withRv hv
  rcases returnWith_cases v s with hc | hc | ⟨hs, hc⟩ <;> rw [hc]
  · exact ht.continueAfter hq
  · exact ht.endTransaction hq
  · exact ht.atPhase_quiet (by simp [hs, positionUsed]) hq nofun

theorem afterStore (h : Inv s) (hq : s.bci.evt = .none) (hs : s.seq = .tRdata) : Inv (afterStore s) := by
  unfold Machine.afterStore
  split_ifs with hw
  · have hlt : s.idx + 1 < recvCount s.cnt := by
      simp only [wantsAck, decide_eq_true_eq] at hw
      omega
    have hcnt : s.idx + 1 < 2 ^ s.params.countW := by
      have hc := h.countRange.1
      unfold recvCount at hlt
      split_ifs at hlt <;> omega
    exact h.enterStep_idx hq hcnt ⟨h.readSteps (.inr (.inr hs)), hlt⟩
  · exact h.enterStep hq trivial

/-! ## Positions that write no CR -/

theorem stepT0 (h : Inv s) (hp : s.ph = .t0) : Inv (stepT0 s) :=
  h.sampleT0.atPhase_edge hp (h.noEvent hp)

theorem stepEntry (h : Inv s) (hp : s.ph = .entry) : Inv (stepEntry s) := by
  have hq : s.bci.evt = .none := h.noEvent hp
  unfold Machine.stepEntry
  split
  case h_2 hs => exact h.sampleT0.atPhase_quiet (by simp [Machine.sampleT0, hs, positionUsed, waitPhases]) hq nofun
  case h_3 hs => exact absurd hs h.notDone
  all_goals exact h

theorem stepBuf (h : Inv s) (hp : s.ph = .buf) : Inv (stepBuf s) := by
  have ht : Inv (latchPayload s.idx s) := { h with }
  exact ht.atPhase_edge hp (h.noEvent hp)

theorem stepDr (h : Inv s) (hp : s.ph = .dr) : Inv (stepDr s) := by
  have ht := h.drWrite (byteToSend s)
  have hph : (Machine.drWrite (byteToSend s) s).ph = .dr := by rw [drWrite_frame]; exact hp
  exact ht.atPhase_edge hph (ht.noEvent hph)

theorem stepPoll (h : Inv s) (hp : s.ph = .poll) : Inv (stepPoll s) := by
  have hclock : Inv ((Machine.pollAction s).atPhase .clock) :=
    h.pollAction.atPhase_wait hp (by simp [stopRunning, Machine.pollAction, hp])
  unfold Machine.stepPoll
  split_ifs with hs hd ht hd ht
  · rw [h.waitComplete_sto, Bool.not_eq_true'] at hd
    exact h.pollAction.returnWith (h.noEvent_of_stopDone (by simp [stopRunning, hp, hs]) hd) (returnSpace_zero _)
  · exact h.pollAction
  · exact hclock
  · rw [waitComplete_int] at hd
    exact h.pollAction.atPhase_quiet (positionUsed_eval hs (hp ▸ h.position)) (h.intNoEvent hd) fun _ => hd
  · exact h.pollAction
  · exact hclock

theorem stepClock (h : Inv s) (hp : s.ph = .clock) : Inv (stepClock s) := by
  unfold Machine.stepClock
  split_ifs <;> exact h.clockAction.atPhase_wait hp (by simp [stopRunning, Machine.clockAction, hp])

theorem stepEval (h : Inv s) (hp : s.ph = .eval) : Inv (stepEval s) := by
  have ht := h.latchStatus
  have hq : (Machine.latchStatus s).bci.evt = .none := h.noEvent hp
  unfold Machine.stepEval
  split
  · exact ht
  · next prim hprim =>
    dsimp only
    split
    · exact ht.returnWith hq (returnSpace_zero _)
    · exact ht.returnWith hq (.inl ht.statusMasked)
    · next ha => exact ht.atPhase_quiet (positionUsed_nstop hprim (arbitrate_graceful ha) _) hq nofun
    · exact ht.atPhase_edge hp hq

theorem stepRdr (h : Inv s) (hp : s.ph = .rdr) : Inv (stepRdr s) := by
  have ht : Inv (latchReceived s) := { h with }
  exact ht.atPhase_edge hp (h.noEvent hp)

theorem stepBufw (h : Inv s) (hp : s.ph = .bufw) : Inv (stepBufw s) := by
  have hs : s.seq = .tRdata := positionUsed_bufw (hp ▸ h.position)
  exact (h.bufWrite_recvIndex hs _).afterStore (h.noEvent hp) hs

theorem stepNestedT0 (h : Inv s) (hp : s.ph = .nstop .t0) : Inv (stepNestedT0 s) :=
  h.sampleT0.atPhase_edge hp (h.noEvent hp)

theorem stepNestedPoll (h : Inv s) (hp : s.ph = .nstop .poll) : Inv (stepNestedPoll s) := by
  unfold Machine.stepNestedPoll
  split_ifs with hd
  · rw [h.waitComplete_sto, Bool.not_eq_true'] at hd
    exact h.pollAction.returnWith (h.noEvent_of_stopDone (by simp [stopRunning, hp]) hd) (.inl h.statusMasked)
  · exact h.pollAction
  · exact h.pollAction.atPhase_wait hp (by simp [stopRunning, Machine.pollAction, hp])

theorem stepNestedClock (h : Inv s) (hp : s.ph = .nstop .clock) : Inv (stepNestedClock s) := by
  unfold Machine.stepNestedClock
  split_ifs <;> exact h.clockAction.atPhase_wait hp (by simp [stopRunning, Machine.clockAction, hp])

theorem plainStep (h : Inv s) : Inv (plainStep s) := by
  unfold Machine.plainStep
  split
  case h_1 hp => exact h.stepEntry hp
  case h_2 hp => exact h.stepBuf hp
  case h_3 hp => exact h.stepDr hp
  case h_4 hp => exact h.stepT0 hp
  case h_5 hp => exact h.stepPoll hp
  case h_6 hp => exact h.stepClock hp
  case h_7 hp => exact h.stepEval hp
  case h_8 hp => exact h.stepRdr hp
  case h_9 hp => exact h.stepBufw hp
  case h_10 hp => exact h.stepNestedT0 hp
  case h_11 hp => exact h.stepNestedPoll hp
  case h_12 hp => exact h.stepNestedClock hp
  all_goals exact h

end Inv

/-! ## CR writes -/

@[simp] theorem busWrite_ph (w : Byte) (s : State) : (busWrite w s).ph = s.ph := by rw [busWrite_frame]

@[simp] theorem busWrite_st (w : Byte) (s : State) : (busWrite w s).st = s.st := by rw [busWrite_frame]

@[simp] theorem busWrite_params (w : Byte) (s : State) : (busWrite w s).params = s.params := by rw [busWrite_frame]

/-- A CR write does not look at the position. -/
theorem busWrite_atPhase (w : Byte) (s : State) (ph : Phase) :
    (busWrite w s).atPhase ph = busWrite w (s.atPhase ph) := by
  unfold busWrite
  exact apply_ite (State.atPhase · ph) _ _ _

/-- The instruction a control word decodes to is the write of that word (30_encoding.md R85). -/
theorem exec_of_decodeControl {s : State} {recv : Bool} {w : Byte} {i : Instr}
    (h : decodeControl s.params recv w = .ok i) : exec i s = crWrite w s := by
  unfold decodeControl at h
  split_ifs at h <;> cases h <;> subst w <;> rfl

/-- The event an issuing word starts: a STOP, with STO, exactly if it is STOP's (30_encoding.md R86,
44_bus_controller.md R211). -/
theorem crWrite_issueWord (b : Bci) {p : Config.Params} (hp : p.wf = true) (hs : b.sto = false) (prim : Primitive)
    (d : Nat) :
    (b.crWrite p (issueWord p prim) d).on = true ∧ (b.crWrite p (issueWord p prim) d).int = false ∧
    (b.crWrite p (issueWord p prim) d).ie = false ∧
    ((b.crWrite p (issueWord p prim) d).sto = true ↔ (b.crWrite p (issueWord p prim) d).evt = .stop) ∧
    ((b.crWrite p (issueWord p prim) d).evt = .stop ↔ prim = .stop) := by
  have hx := b.xferEvt_ne_stop
  cases prim with
  | start => simp [issueWord, b.crWrite_wStart d hp, hs]
  | sendAddr dir => simp [issueWord, b.crWrite_wSend d hp, hs, hx]
  | sendByte => simp [issueWord, b.crWrite_wSend d hp, hs, hx]
  | recvByte ack => cases ack <;> simp [issueWord, wRnackWord_eq, b.crWrite_wSend d hp, b.crWrite_wRack d hp, hs, hx]
  | stop => simp [issueWord, b.crWrite_wStop d hp]

namespace Inv

variable {s : State}

/-- A CR write keeps the invariant when the BCI it leaves does. -/
theorem busWrite {w : Byte} (h : Inv (s.withBci (s.bci.crWrite s.params w s.draws))) : Inv (busWrite w s) := by
  unfold Machine.busWrite
  split_ifs
  · exact h.emit _
  · exact (h.emit _).drawn

theorem busWrite_wEnable (h : Inv s) : Inv (Machine.busWrite (wEnableWord s.params) s) := by
  apply busWrite
  rw [Bci.crWrite_wEnable _ _ h.paramsWf]
  exact { h with onForEvent := fun _ => rfl, ieClear := rfl }

/-- A disable discards the event; INT is a draw, so it must not fall between the poll and the evaluation. -/
theorem busWrite_wOff (h : Inv s) (hp : s.ph ≠ .eval) : Inv (Machine.busWrite wOffWord s) := by
  apply busWrite
  rw [Bci.crWrite_wOff]
  exact h.withBci_noEvent rfl rfl rfl fun he => absurd he hp

/-- An issuing word at the poll of its primitive's wait. -/
theorem busWrite_issueWord (h : Inv s) (hw : waitingPhase s.ph = true) (hq : s.bci.evt = .none) {prim : Primitive}
    (hr : prim = .stop ↔ stopRunning s = true) : Inv (Machine.busWrite (issueWord s.params prim) s) := by
  have hsto : s.bci.sto = false := by simpa [hq] using h.stoStop
  obtain ⟨hon, hint, hie, hse, hes⟩ := crWrite_issueWord s.bci h.paramsWf hsto prim s.draws
  refine busWrite { h with
    onForEvent := fun _ => hon
    waitForEvent := fun _ => hw
    intNoEvent := fun hi => absurd (hint.symm.trans hi) (by decide)
    stoStop := hse
    stopWait := fun hs => hr.mp (hes.mp hs)
    onlyStop := fun hs => .inr (hes.mpr (hr.mpr hs))
    evalInt := fun he => ?_
    ieClear := hie }
  rw [show s.ph = .eval from he] at hw
  cases hw

/-- W_OFF of a LOCKUP, then the move to its second write (43_recovery.md R200). -/
theorem lockOff (h : Inv s) {a b : Phase} (ha : s.ph = a) (hne : a ≠ .eval := by decide)
    (hab : (a, b) ∈ phaseEdges := by decide) (hb : b ≠ .eval := by decide) :
    Inv ((Machine.busWrite wOffWord s).atPhase b) :=
  (h.busWrite_wOff (ha ▸ hne)).atPhase_edge (by simpa using ha)
    (by rw [busWrite_bci, Bci.crWrite_wOff]; rfl) hab hb

/-- W_ENABLE of a LOCKUP, then the return (43_recovery.md R200). -/
theorem lockEnable (h : Inv s) (hq : s.bci.evt = .none) {v : Byte} (hv : returnSpace s.params v) :
    Inv (Machine.returnWith v (Machine.busWrite (wEnableWord s.params) s)) :=
  h.busWrite_wEnable.returnWith (by rw [busWrite_bci, Bci.crWrite_wEnable _ _ h.paramsWf]; exact hq) (by simpa using hv)

theorem issue (h : Inv s) (hp : s.ph = .issue) {prim : Primitive} (hprim : primitiveOf s = some prim) :
    Inv ((Machine.busWrite (issueWord s.params prim) s).atPhase .poll) := by
  have hq : s.bci.evt = .none := h.noEvent hp
  rw [busWrite_atPhase]
  refine (h.atPhase_edge (b := .poll) hp hq).busWrite_issueWord rfl hq ?_
  rw [primitiveOf_stop hprim]
  simp [stopRunning]

theorem nestedIssue (h : Inv s) (hp : s.ph = .nstop .issue) :
    Inv ((Machine.busWrite (wStopWord s.params) s).atPhase (.nstop .poll)) := by
  have hq : s.bci.evt = .none := h.noEvent hp
  rw [busWrite_atPhase]
  exact (h.atPhase_edge (b := .nstop .poll) hp hq).busWrite_issueWord (prim := .stop) rfl hq (by simp [stopRunning])

/-- A position's control word, and the move after it. -/
theorem afterControlWord (h : Inv s) {w : Byte} (hw : controlWordAt s = some w) :
    Inv (afterControlWord (Machine.busWrite w s)) := by
  unfold controlWordAt at hw
  unfold Machine.afterControlWord
  rw [busWrite_ph]
  cases hp : s.ph <;> rw [hp] at hw
  case issue =>
    obtain ⟨prim, hprim, rfl⟩ := Option.map_eq_some_iff.mp hw
    exact h.issue hp hprim
  case lock0 c =>
    cases hw
    cases c
    · exact h.lockOff (b := .lock1 .timedOut) hp
    · exact h.lockOff (b := .lock1 .status) hp
  case lock1 c =>
    cases hw
    refine h.lockEnable (h.noEvent hp) ?_
    cases c
    · exact .inr rfl
    · refine .inl ?_
      simp only [heldOutcome, busWrite_st]
      exact h.statusMasked
  case nstop sub =>
    cases sub
    case issue => cases hw; exact h.nestedIssue hp
    case lock0 => cases hw; exact h.lockOff (b := .nstop .lock1) hp
    case lock1 =>
      cases hw
      refine h.lockEnable (h.noEvent hp) (.inl ?_)
      rw [busWrite_st]
      exact h.statusMasked
    all_goals cases hw
  all_goals cases hw

/-! ## The engine -/

theorem engineAction {t : State} (h : Inv s) (hs : engineAction s = .next t) : Inv t := by
  obtain ⟨-, ⟨-, rfl⟩ | ⟨w, i, u, hw, hd, hu, rfl⟩⟩ := engineAction_cases hs
  · exact h.plainStep
  · rw [exec_of_decodeControl hd] at hu
    obtain ⟨-, rfl⟩ := crWrite_next hu
    exact h.afterControlWord hw

/-- An idle engine rests at P_ENTRY. -/
theorem entry_of_ready (h : Inv s) (hr : s.ready = true) : s.ph = .entry := by
  have hp := h.position
  rw [beq_iff_eq.mp hr] at hp
  exact beq_iff_eq.mp hp

theorem execBegin {t : State} (h : Inv s) (hs : execBegin s = .next t) : Inv t := by
  unfold Machine.execBegin at hs
  split_ifs at hs <;> cases hs
  · have ht : Inv (Machine.brWrite s.params.brSlow
        { srPsWrite s.params.psBase (puWrite true s) with speed := false }) := { h with }
    exact ht.busWrite_wEnable.emit _
  · exact h

theorem execEnd {t : State} (h : Inv s) (hs : execEnd s = .next t) : Inv t := by
  unfold Machine.execEnd at hs
  split_ifs at hs with hr <;> cases hs
  · exact (h.busWrite_wOff (by simp [h.entry_of_ready hr])).emit _
  · exact h

theorem execTimeout {t : State} (h : Inv s) {ms : Nat} (hm : ms < 2 ^ s.params.timeoutW)
    (hs : execTimeout ms s = .next t) : Inv t := by
  cases hs
  exact { h with timeoutRange := ⟨hm, h.timeoutRange.2⟩ }

theorem execSetSpeed {t : State} (h : Inv s) {fast : Bool} (hs : execSetSpeed fast s = .next t) : Inv t := by
  cases hs
  exact { h with }

/-- Acceptance of a transaction by an idle engine (40_lifecycle.md R110). -/
theorem accept (h : Inv s) (hr : s.ready = true) (isRead : Bool) (addr : SlaveAddr) (reg : Byte) {count : Nat}
    (hc : count < 2 ^ s.params.countW) : Inv (accept isRead addr reg count s) :=
  { h.goto_quiet (h.noEvent (h.entry_of_ready hr)) hc h.countRange.2 (opr := isRead) (q := .tStart) trivial rfl
    (ph := .entry) nofun with }

theorem execWrite {t : State} (h : Inv s) {addr : SlaveAddr} {reg : Byte} {count : Nat}
    (hc : count < 2 ^ s.params.countW) (hs : execWrite addr reg count s = .next t) : Inv t := by
  unfold Machine.execWrite at hs
  split_ifs at hs with hr <;> cases hs
  · exact h.accept hr false addr reg hc
  · exact h

theorem execRead {t : State} (h : Inv s) {addr : SlaveAddr} {reg : Byte} {count : Nat}
    (hc : count < 2 ^ s.params.countW) (hs : execRead addr reg count s = .next t) : Inv t := by
  unfold Machine.execRead at hs
  split_ifs at hs with hr <;> cases hs
  · exact h.accept hr true addr reg hc
  · exact h

/-- A host command whose operands fit their fields. -/
theorem exec_command {t : State} (h : Inv s) {i : Instr} (hi : i.isCommand = true) (hw : i.wellFormed s.params = true)
    (hs : exec i s = .next t) : Inv t := by
  cases i with
  | beginCmd => exact h.execBegin hs
  | endCmd => exact h.execEnd hs
  | timeoutCmd ms => exact h.execTimeout (of_decide_eq_true hw) hs
  | setSpeed fast => exact h.execSetSpeed hs
  | write addr reg count => exact h.execWrite (of_decide_eq_true hw) hs
  | read addr reg count => exact h.execRead (of_decide_eq_true hw) hs
  | wStart | wSend | wRack | wRnack | wStop | wEnable | wOff => cases hi

theorem engineStep {t : State} (h : Inv s) (hs : engineStep s = .next t) : Inv t := by
  obtain ha | ⟨w, rest, i, -, hd, -, hx⟩ := engineStep_cases hs
  · exact h.engineAction ha
  · have hrest : Inv { s with port := rest } := { h with }
    exact hrest.exec_command (decodeCommand_isCommand hd) (decodeCommand_wellFormed hd) hx

/-! ## The other agents -/

theorem bciComplete (h : Inv s) (sigma delta : Byte) : Inv (bciComplete sigma delta s) := by
  unfold Machine.bciComplete
  split_ifs with hc
  · have hne : s.bci.evt ≠ .stop := by
      intro he
      simp [Bci.canComplete, Bci.completes, he] at hc
    have hsto : s.bci.sto = false := by simpa [hne] using h.stoStop
    exact h.withBci_noEvent rfl hsto h.ieClear fun _ => rfl
  · exact h

theorem bciStopDone (h : Inv s) : Inv (bciStopDone s) := by
  unfold Machine.bciStopDone
  split_ifs
  · exact h.withBci_noEvent rfl rfl h.ieClear h.evalInt
  · exact h

theorem tick (h : Inv s) : Inv (tick s) :=
  { h with clockRange := ⟨Nat.mod_lt _ (Nat.two_pow_pos _), h.clockRange.2⟩ }

theorem hostRead {t : State} (h : Inv s) {i : Nat} (hs : hostRead i s = .next t) : Inv t := by
  obtain ⟨-, rfl⟩ := hostAccess_next hs
  exact h

theorem hostWrite {t : State} (h : Inv s) {i : Nat} {b : Byte} (hs : hostWrite i b s = .next t) : Inv t := by
  obtain ⟨hi, rfl⟩ := hostAccess_next hs
  exact { h with bufCanonical := bufSet_wf h.bufCanonical b hi }

theorem stepMove {t : State} (h : Inv s) {m : Move} (hs : stepMove m s = .next t) : Inv t := by
  cases m with
  | engine => exact h.engineStep hs
  | complete sigma delta => cases hs; exact h.bciComplete sigma delta
  | stopDone => cases hs; exact h.bciStopDone
  | tick => cases hs; exact h.tick
  | present w => cases hs; exact { h with }
  | hostRead i => exact h.hostRead hs
  | hostWrite i b => exact h.hostWrite hs
  | foreignWrite r b => cases hs

theorem step {t : State} (h : Inv s) (hs : step s = .next t) : Inv t := by
  cases ha : s.agenda with
  | nil => exact h.engineStep (step_agenda_nil ha ▸ hs)
  | cons m rest =>
    have hrest : Inv { s with agenda := rest } := { h with }
    exact hrest.stepMove (step_agenda_cons ha ▸ hs)

end Inv

/-- Settles O3: a step is one move of one agent, and each move is a composition of changes that keep the invariant. -/
theorem everyStepKeepsTheInvariant : Obligations.EveryStepKeepsTheInvariant := fun _ _ h hs => h.step hs

end Sys2Proof.Machine

/-! # Proofs: the state at reset, and what changes the configuration, the status and the result

A step is an action of the engine, the acceptance of a command, or a move of another agent (`step_cases`). A decision of
the sequencer writes none of the registers outside it (`Surroundings`), and leaves RES and the trace alone or finishes
the transaction (`Decision`); so an engine action changes outside the sequencer only BUF and the BCI, by a DR or CR
write. -/

namespace Sys2Proof.Machine

/-! ## Reset (10_state.md R40) -/

theorem getLsbD_crBit (v : Bool) (pos i : BitPos) :
    (Bci.crBit v pos).getLsbD i = (v && decide (pos = i)) := by
  cases v with
  | false => exact BitVec.getLsbD_zero
  | true => exact getLsbD_bit pos i

theorem getLsbD_crNamed (p : Config.Params) (i : BitPos) :
    p.crNamed.getLsbD i = decide (i ∈ p.crPositions) := by
  simp only [Config.Params.crNamed, Config.Params.crPositions, List.foldl, BitVec.getLsbD_or, getLsbD_bit,
    BitVec.getLsbD_zero, Bool.false_or, List.mem_cons, List.not_mem_nil, or_false, Bool.decide_or, Bool.or_assoc,
    eq_comm (a := i)]

/-- The power-on CR has 0 in EN, STO, IE and the reserved bit (R40, log 27). -/
theorem crReset_clear {p : Config.Params} (h : p.wf = true) {i : BitPos}
    (hi : i = p.crEn ∨ i = p.crSto ∨ i = p.crIe ∨ i ∉ p.crPositions) : p.crReset.getLsbD i = false := by
  simp only [Config.Params.wf, Config.Params.layoutOk, Bool.and_eq_true, beq_iff_eq] at h
  obtain ⟨⟨-, -, hz⟩, -⟩ := h
  have hbit := congrArg (fun v : Byte => v.getLsbD i) hz
  simp only [BitVec.getLsbD_and, BitVec.getLsbD_or, BitVec.getLsbD_not, getLsbD_bit, getLsbD_crNamed,
    BitVec.getLsbD_zero] at hbit
  rcases hi with rfl | rfl | rfl | hi
  · simpa using hbit
  · simpa using hbit
  · simpa using hbit
  · simpa [hi] using hbit

/-- The fields of CR after power-on make the power-on byte again: its reserved bit is 0. -/
theorem resetWith_cr {p : Config.Params} (h : p.wf = true) : (Bci.resetWith p).cr p = p.crReset := by
  apply BitVec.eq_of_getLsbD_eq
  intro n hn
  obtain ⟨i, rfl⟩ : ∃ i : BitPos, i.val = n := ⟨⟨n, hn⟩, rfl⟩
  simp only [Bci.cr, Bci.resetWith, BitVec.getLsbD_or, getLsbD_crBit]
  have hreserved : i ∉ p.crPositions → p.crReset.getLsbD i = false := fun hi => crReset_clear h (.inr (.inr (.inr hi)))
  simp only [Config.Params.crPositions, List.mem_cons, List.not_mem_nil, or_false] at hreserved
  grind

/-- An idle engine takes no action (70_reset_and_hazards.md R271). -/
theorem engineAction_idle {s : State} (hs : s.seq = .idle) (hp : s.ph = .entry) : engineAction s = .next s := by
  simp [engineAction, positionUsed, controlWordAt, plainStep, stepEntry, hs, hp]

/-- Settles O1: the fields of CR make the power-on byte again, and an idle engine with no command takes no action. -/
theorem resetLeavesTheSpecifiedState : Obligations.ResetLeavesTheSpecifiedState := by
  refine ⟨fun p hp => ⟨rfl, rfl, rfl, rfl, rfl, rfl, resetWith_cr hp, rfl, rfl, rfl, rfl, crReset_clear hp (.inl rfl),
    rfl, ?_, fun s => engineAction_idle⟩, by decide, rfl, rfl, rfl⟩
  rw [step_agenda_nil rfl, engineStep_port_nil rfl, engineAction_idle rfl rfl]

/-- Settles O2: every register with a range is 0, no event is in flight, and CR has 0 in EN, STO and IE. -/
theorem resetMeetsTheInvariant : Obligations.ResetMeetsTheInvariant := fun p hp =>
  have hsto : (State.resetWith p).bci.sto = false := crReset_clear hp (.inr (.inl rfl))
  { paramsWf := hp
    timeoutRange := ⟨Nat.two_pow_pos _, Nat.two_pow_pos _⟩
    clockRange := ⟨Nat.two_pow_pos _, Nat.two_pow_pos _⟩
    countRange := ⟨Nat.two_pow_pos _, Nat.two_pow_pos _⟩
    bufCanonical := rfl
    position := rfl
    notDone := nofun
    statusMasked := BitVec.zero_and
    rvSpace := returnSpace_zero p
    resSpace := .inl BitVec.zero_and
    idxPayload := nofun
    idxReceive := nofun
    writeSteps := nofun
    readSteps := by rintro (h | h | h) <;> cases h
    onForEvent := fun h => absurd rfl h
    waitForEvent := fun h => absurd rfl h
    intNoEvent := fun _ => rfl
    stoStop := by rw [hsto]; exact ⟨nofun, nofun⟩
    stopWait := nofun
    onlyStop := fun _ => .inl rfl
    evalInt := nofun
    ieClear := crReset_clear hp (.inr (.inr (.inl rfl))) }

/-! ## Whose step it is -/

/-- Everything a step can be: an engine action, the acceptance of the presented command, or a move of another agent. -/
theorem step_cases {s t : State} (h : step s = .next t) :
    ∃ agenda, engineAction { s with agenda := agenda } = .next t ∨
      (∃ w rest i, s.port = w :: rest ∧ decodeCommand s.params w = .ok i ∧ accepts i s = true ∧
        exec i { s with agenda := agenda, port := rest } = .next t) ∨
      ∃ m, m ≠ .engine ∧ stepMove m { s with agenda := agenda } = .next t := by
  have engine {agenda} (he : engineStep { s with agenda := agenda } = .next t) :
      engineAction { s with agenda := agenda } = .next t ∨
        ∃ w rest i, s.port = w :: rest ∧ decodeCommand s.params w = .ok i ∧ accepts i s = true ∧
          exec i { s with agenda := agenda, port := rest } = .next t :=
    (engineStep_cases he).imp_right fun ⟨w, rest, i, hp, hd, hacc, hx⟩ =>
      ⟨w, rest, i, hp, hd, by cases i <;> exact hacc, hx⟩
  cases ha : s.agenda with
  | nil =>
    rw [step_agenda_nil ha] at h
    exact ⟨s.agenda, (engine h).imp_right .inl⟩
  | cons m rest =>
    rw [step_agenda_cons ha] at h
    by_cases hm : m = .engine
    · subst hm
      exact ⟨rest, (engine h).imp_right .inl⟩
    · exact ⟨rest, .inr (.inr ⟨m, hm, h⟩)⟩

/-- Everything an engine action can do: the plain step of its position, or the write of a control word and the move
after it. -/
theorem engineAction_plain_or_write {s t : State} (h : engineAction s = .next t) :
    t = plainStep s ∨ ∃ w ∈ controlWords s.params, t = afterControlWord (busWrite w s) := by
  obtain ⟨-, ⟨-, rfl⟩ | ⟨w, i, u, -, hd, hu, rfl⟩⟩ := engineAction_cases h
  · exact .inl rfl
  · rw [exec_of_decodeControl hd] at hu
    obtain ⟨hw, rfl⟩ := crWrite_next hu
    exact .inr ⟨w, List.contains_iff_mem.mp hw, rfl⟩

/-- The moves of the other agents write the BCI, NOW, BUF and the port, and the BCI only by its own completions
(44_bus_controller.md R213, R215). -/
theorem stepMove_cases {s t : State} {m : Move} (hm : m ≠ .engine) (h : stepMove m s = .next t) :
    t = { s with bci := t.bci, now := t.now, buf := t.buf, port := t.port } ∧
      (t.bci = s.bci ∨ t.bci = s.bci.stopDone ∨
        (s.bci.canComplete = true ∧ ∃ sigma delta, t.bci = s.bci.complete s.params sigma delta)) := by
  cases m with
  | engine => exact absurd rfl hm
  | complete sigma delta =>
    cases h
    unfold bciComplete
    split_ifs with hc
    · exact ⟨rfl, .inr (.inr ⟨hc, sigma, delta, rfl⟩)⟩
    · exact ⟨rfl, .inl rfl⟩
  | stopDone =>
    cases h
    unfold bciStopDone
    split_ifs
    · exact ⟨rfl, .inr (.inl rfl)⟩
    · exact ⟨rfl, .inl rfl⟩
  | tick => cases h; exact ⟨rfl, .inl rfl⟩
  | present w => cases h; exact ⟨rfl, .inl rfl⟩
  | hostRead i =>
    obtain ⟨-, rfl⟩ := hostAccess_next (show hostRead i s = .next t from h)
    exact ⟨rfl, .inl rfl⟩
  | hostWrite i b =>
    obtain ⟨-, rfl⟩ := hostAccess_next (show hostWrite i b s = .next t from h)
    exact ⟨rfl, .inl rfl⟩
  | foreignWrite r b => cases h

/-! ## Accepted commands -/

/-- The state of BEGIN before its last action, the CR write (40_lifecycle.md R111). -/
def beginPresets (s : State) : State :=
  brWrite s.params.brSlow { srPsWrite s.params.psBase (puWrite true s) with speed := false }

/-- What the acceptance of a command at `s` leaves (R110 to R114). -/
inductive Accepted (s : State) : Instr → State → Prop where
  | beginCmd :
    Accepted s .beginCmd (finishLifecycle .beginCmd (busWrite (wEnableWord s.params) (beginPresets s)))
  | endCmd : Accepted s .endCmd (finishLifecycle .endCmd (busWrite wOffWord s))
  | timeoutCmd (ms : Nat) : Accepted s (.timeoutCmd ms) (finishLifecycle (.timeoutCmd ms) { s with timeout := ms })
  | setSpeed (fast : Bool) : Accepted s (.setSpeed fast) (finishLifecycle (.setSpeed fast)
      (brWrite (if fast then s.params.brFast else s.params.brSlow) { s with speed := fast }))
  | write (addr : SlaveAddr) (reg : Byte) (count : Nat) :
    Accepted s (.write addr reg count) (accept false addr reg count s)
  | read (addr : SlaveAddr) (reg : Byte) (count : Nat) :
    Accepted s (.read addr reg count) (accept true addr reg count s)

/-- Everything `exec` can do with a command that is accepted. -/
theorem exec_accepted {s t : State} {i : Instr} (ha : accepts i s = true) (h : exec i s = .next t) :
    Accepted s i t := by
  cases i with
  | beginCmd => cases (if_pos ha).symm.trans h; exact .beginCmd
  | endCmd => cases (if_pos ha).symm.trans h; exact .endCmd
  | timeoutCmd ms => cases h; exact .timeoutCmd ms
  | setSpeed fast => cases h; exact .setSpeed fast
  | write addr reg count => cases (if_pos ha).symm.trans h; exact .write addr reg count
  | read addr reg count => cases (if_pos ha).symm.trans h; exact .read addr reg count
  | wStart | wSend | wRack | wRnack | wStop | wEnable | wOff => cases ha

@[simp] theorem busWrite_res (w : Byte) (s : State) : (busWrite w s).res = s.res := by rw [busWrite_frame]

/-! ## The registers outside the sequencer -/

/-- The registers outside the sequencer and BUF: a decision of the sequencer writes none of them. -/
structure Surroundings where
  timeout : Nat
  speed : Bool
  pu : Bool
  bci : Bci
  now : Nat
  port : List CommandWord
  agenda : List Move
  params : Config.Params

def State.surroundings (s : State) : Surroundings :=
  ⟨s.timeout, s.speed, s.pu, s.bci, s.now, s.port, s.agenda, s.params⟩

theorem busWrite_surroundings (w : Byte) (s : State) :
    (busWrite w s).surroundings = { s.surroundings with bci := s.bci.crWrite s.params w s.draws } := by
  unfold busWrite
  split_ifs <;> rfl

/-- What a decision of the sequencer can do from `s` to `t`: the registers outside the sequencer stay, and RES and the
trace stay too, or the transaction ends with a DONE that carries RES. -/
structure Decision (s t : State) : Prop where
  surroundings : t.surroundings = s.surroundings
  result : (t.res = s.res ∧ t.trace = s.trace) ∨
    (t.seq = .idle ∧ t.trace = .done (commandOf s) (some t.res) :: s.trace)

theorem continueAfter_decision (s : State) : Decision s (continueAfter s) := by
  unfold continueAfter
  split
  case h_3 => split_ifs <;> exact ⟨rfl, .inl ⟨rfl, rfl⟩⟩
  case h_7 => exact ⟨rfl, .inr ⟨rfl, rfl⟩⟩
  case h_8 => exact ⟨rfl, .inr ⟨rfl, rfl⟩⟩
  all_goals exact ⟨rfl, .inl ⟨rfl, rfl⟩⟩

theorem returnWith_decision (v : Byte) (s : State) : Decision s (returnWith v s) := by
  obtain h | h | ⟨-, h⟩ := returnWith_cases v s <;> rw [h]
  · exact { continueAfter_decision { s with rv := v } with }
  · exact ⟨rfl, .inr ⟨rfl, rfl⟩⟩
  · exact ⟨rfl, .inl ⟨rfl, rfl⟩⟩

theorem afterControlWord_decision (s : State) : Decision s (afterControlWord s) := by
  unfold afterControlWord
  split
  case h_3 => exact returnWith_decision _ _
  case h_6 => exact returnWith_decision _ _
  all_goals exact ⟨rfl, .inl ⟨rfl, rfl⟩⟩

/-- RES is kept, or the step ends the transaction and emits last its DONE with the new RES. -/
def ResultKeptOrFinished (s t : State) : Prop :=
  t.res = s.res ∨ (t.seq = .idle ∧ t.trace.head? = some (.done (commandOf s) (some t.res)))

/-- What a step that writes neither CR nor DR can do: an action that writes nothing outside the sequencer but BUF, and
the decision after it. -/
structure QuietAction (s t : State) : Prop where
  surroundings : t.surroundings = s.surroundings
  result : ResultKeptOrFinished s t

/-- An action that leads to `u` and keeps RES and the command, then a decision. -/
theorem Decision.resultKeptOrFinished {s u t : State} (h : Decision u t) (hres : u.res = s.res)
    (hcmd : commandOf u = commandOf s) : ResultKeptOrFinished s t := by
  obtain ⟨hr, -⟩ | ⟨hs, ht⟩ := h.result
  · exact .inl (hr.trans hres)
  · exact .inr ⟨hs, by rw [ht, hcmd]; rfl⟩

theorem Decision.quietAction {s u t : State} (h : Decision u t) (hs : u.surroundings = s.surroundings)
    (hres : u.res = s.res) (hcmd : commandOf u = commandOf s) : QuietAction s t :=
  ⟨h.surroundings.trans hs, h.resultKeptOrFinished hres hcmd⟩

theorem stepEntry_quiet (s : State) : QuietAction s (stepEntry s) := by
  unfold stepEntry
  split
  case h_3 => exact ⟨rfl, .inr ⟨rfl, rfl⟩⟩
  all_goals exact ⟨rfl, .inl rfl⟩

theorem stepPoll_quiet (s : State) : QuietAction s (stepPoll s) := by
  unfold stepPoll
  split_ifs
  · exact (returnWith_decision 0#8 (pollAction s)).quietAction rfl rfl rfl
  all_goals exact ⟨rfl, .inl rfl⟩

theorem stepClock_quiet (s : State) : QuietAction s (stepClock s) := by
  unfold stepClock
  split_ifs <;> exact ⟨rfl, .inl rfl⟩

theorem stepEval_quiet (s : State) : QuietAction s (stepEval s) := by
  unfold stepEval
  split
  · exact ⟨rfl, .inl rfl⟩
  · dsimp only
    split
    · exact (returnWith_decision _ (latchStatus s)).quietAction rfl rfl rfl
    · exact (returnWith_decision _ (latchStatus s)).quietAction rfl rfl rfl
    · exact ⟨rfl, .inl rfl⟩
    · exact ⟨rfl, .inl rfl⟩

theorem stepBufw_quiet (s : State) : QuietAction s (stepBufw s) := by
  unfold stepBufw afterStore
  split_ifs <;> exact ⟨rfl, .inl rfl⟩

theorem stepNestedPoll_quiet (s : State) : QuietAction s (stepNestedPoll s) := by
  unfold stepNestedPoll
  split_ifs
  · exact (returnWith_decision s.st (pollAction s)).quietAction rfl rfl rfl
  all_goals exact ⟨rfl, .inl rfl⟩

theorem stepNestedClock_quiet (s : State) : QuietAction s (stepNestedClock s) := by
  unfold stepNestedClock
  split_ifs <;> exact ⟨rfl, .inl rfl⟩

theorem plainStep_quiet {s : State} (h : s.ph ≠ .dr) : QuietAction s (plainStep s) := by
  unfold plainStep
  split
  case h_1 => exact stepEntry_quiet s
  case h_3 hp => exact absurd hp h
  case h_5 => exact stepPoll_quiet s
  case h_6 => exact stepClock_quiet s
  case h_7 => exact stepEval_quiet s
  case h_9 => exact stepBufw_quiet s
  case h_11 => exact stepNestedPoll_quiet s
  case h_12 => exact stepNestedClock_quiet s
  all_goals exact ⟨rfl, .inl rfl⟩

theorem plainStep_dr {s : State} (h : s.ph = .dr) : plainStep s = (drWrite (byteToSend s) s).atPhase .t0 := by
  simp only [plainStep, h, stepDr]

/-! ## What an engine action can do -/

/-- An engine action writes nothing outside the sequencer but BUF and the BCI's DR or CR. -/
theorem engineAction_surroundings {s t : State} (h : engineAction s = .next t) :
    t.surroundings = { s.surroundings with bci := t.bci } ∧
      (t.bci = s.bci ∨ (∃ v, t.bci = s.bci.drWrite v s.draws) ∨
        ∃ w ∈ controlWords s.params, t.bci = s.bci.crWrite s.params w s.draws ∧
          t = afterControlWord (busWrite w s)) := by
  obtain rfl | ⟨w, hw, rfl⟩ := engineAction_plain_or_write h
  · by_cases hp : s.ph = .dr
    · rw [plainStep_dr hp, drWrite_frame]
      exact ⟨rfl, .inr (.inl ⟨_, rfl⟩)⟩
    · have hs := (plainStep_quiet hp).surroundings
      have hb : (plainStep s).bci = s.bci := congrArg Surroundings.bci hs
      exact ⟨by rw [hs, hb]; rfl, .inl hb⟩
  · have hs := (afterControlWord_decision (busWrite w s)).surroundings.trans (busWrite_surroundings w s)
    have hb : (afterControlWord (busWrite w s)).bci = s.bci.crWrite s.params w s.draws := congrArg Surroundings.bci hs
    exact ⟨by rw [hs, hb], .inr (.inr ⟨w, hw, hb, rfl⟩)⟩

theorem engineAction_result {s t : State} (h : engineAction s = .next t) : ResultKeptOrFinished s t := by
  obtain rfl | ⟨w, -, rfl⟩ := engineAction_plain_or_write h
  · by_cases hp : s.ph = .dr
    · rw [plainStep_dr hp, drWrite_frame]
      exact .inl rfl
    · exact (plainStep_quiet hp).result
  · exact (afterControlWord_decision _).resultKeptOrFinished (busWrite_res w s) (by rw [busWrite_frame]; rfl)

/-- The only action of an idle engine is none. -/
theorem engineAction_of_idle {s t : State} (hs : s.seq = .idle) (h : engineAction s = .next t) : t = s := by
  obtain ⟨hu, -⟩ := engineAction_cases h
  rw [hs] at hu
  rw [engineAction_idle hs (beq_iff_eq.mp hu)] at h
  cases h
  rfl

/-! ## BR and the fields of SR -/

/-- Writing one field of a byte keeps a field apart from it. -/
theorem writeField_and_other {m k : Byte} (h : m &&& k = 0#8) (x y : Byte) :
    ((x &&& ~~~m) ||| (y &&& m)) &&& k = x &&& k := by
  apply BitVec.eq_of_getLsbD_eq
  intro i hi
  have hb := congrArg (fun v : Byte => v.getLsbD i) h
  simp only [BitVec.getLsbD_and, BitVec.getLsbD_or, BitVec.getLsbD_not, BitVec.getLsbD_zero, hi] at hb ⊢
  grind

/-- The status and the prescaler are different fields of SR (10_state.md R32, log 27). -/
theorem wf_srFields {p : Config.Params} (h : p.wf = true) : p.srMask &&& p.srPsMask = 0#8 := by
  simp only [Config.Params.wf, Config.Params.layoutOk, Bool.and_eq_true, beq_iff_eq] at h
  obtain ⟨⟨-, ⟨-, hfields⟩, -⟩, -⟩ := h
  exact hfields

namespace Bci

variable (b : Bci) {p : Config.Params}

theorem withStatus_ps (h : p.wf = true) (sigma : Byte) : (b.withStatus p sigma).ps p = b.ps p :=
  writeField_and_other (wf_srFields h) _ _

theorem srPsWrite_status (h : p.wf = true) (v : Byte) : (b.srPsWrite p v).status p = b.status p :=
  writeField_and_other ((BitVec.and_comm _ _).trans (wf_srFields h)) _ _

theorem crWrite_br (w : Byte) (d : Nat) : (b.crWrite p w d).br = b.br := by
  unfold crWrite
  split_ifs <;> rfl

/-- A CR write that enables leaves all of SR; one that disables draws the status field (44_bus_controller.md R218). -/
theorem crWrite_sr (w : Byte) (d : Nat) :
    (b.crWrite p w d).sr = if w.getLsbD p.crEn then b.sr else (b.withStatus p (Config.freeStatus d)).sr := by
  unfold crWrite
  split_ifs <;> rfl

theorem crWrite_ps (h : p.wf = true) (w : Byte) (d : Nat) : (b.crWrite p w d).ps p = b.ps p := by
  unfold ps
  rw [crWrite_sr]
  split_ifs
  · rfl
  · exact b.withStatus_ps h _

theorem drWrite_br (v : Byte) (d : Nat) : (b.drWrite v d).br = b.br := by
  unfold drWrite
  split_ifs <;> rfl

theorem drWrite_sr (v : Byte) (d : Nat) : (b.drWrite v d).sr = b.sr := by
  unfold drWrite
  split_ifs <;> rfl

end Bci

/-! ## The configuration -/

section Configuration

variable {s t : State}

/-- TIMEOUT, SPEED, PU, BR, PS and the parameters are kept. -/
structure ConfigKept (s t : State) : Prop where
  timeout : t.timeout = s.timeout
  speed : t.speed = s.speed
  pu : t.pu = s.pu
  br : t.bci.br = s.bci.br
  ps : t.bci.ps s.params = s.bci.ps s.params
  params : t.params = s.params

theorem configKept_of_surroundings (hs : t.surroundings = { s.surroundings with bci := t.bci })
    (hbr : t.bci.br = s.bci.br) (hps : t.bci.ps s.params = s.bci.ps s.params) : ConfigKept s t :=
  ⟨congrArg Surroundings.timeout hs, congrArg Surroundings.speed hs, congrArg Surroundings.pu hs, hbr, hps,
    congrArg Surroundings.params hs⟩

theorem busWrite_configKept (hwf : s.params.wf = true) (w : Byte) : ConfigKept s (busWrite w s) :=
  configKept_of_surroundings (by rw [busWrite_surroundings, busWrite_bci])
    (by rw [busWrite_bci, Bci.crWrite_br]) (by rw [busWrite_bci, Bci.crWrite_ps _ hwf])

theorem engineAction_configKept (hwf : s.params.wf = true) (h : engineAction s = .next t) : ConfigKept s t := by
  obtain ⟨hs, hb | ⟨v, hb⟩ | ⟨w, -, hb, -⟩⟩ := engineAction_surroundings h
  · exact configKept_of_surroundings hs (by rw [hb]) (by rw [hb])
  · exact configKept_of_surroundings hs (by rw [hb, Bci.drWrite_br]) (by rw [hb, Bci.ps, Bci.drWrite_sr]; rfl)
  · exact configKept_of_surroundings hs (by rw [hb, Bci.crWrite_br]) (by rw [hb, Bci.crWrite_ps _ hwf])

theorem stepMove_configKept {m : Move} (hwf : s.params.wf = true) (hm : m ≠ .engine)
    (h : stepMove m s = .next t) : ConfigKept s t := by
  obtain ⟨hf, hb⟩ := stepMove_cases hm h
  obtain ⟨hbr, hps⟩ : t.bci.br = s.bci.br ∧ t.bci.ps s.params = s.bci.ps s.params := by
    obtain hb | hb | ⟨-, sigma, delta, hb⟩ := hb <;> rw [hb]
    · exact ⟨rfl, rfl⟩
    · exact ⟨rfl, rfl⟩
    · exact ⟨rfl, Bci.withStatus_ps _ hwf _⟩
  exact ⟨by rw [hf], by rw [hf], by rw [hf], hbr, hps, by rw [hf]⟩

/-- The rule of 10_state.md R20 to R22 and R35: which command changes what. -/
def ConfigurationRule (s t : State) : Prop :=
  (t.timeout ≠ s.timeout → ∃ ms, t.timeout = ms ∧ t.trace = .done (.timeoutCmd ms) none :: s.trace) ∧
  (t.speed ≠ s.speed ∨ t.bci.br ≠ s.bci.br →
    t.trace.head? = some (.done .beginCmd none) ∨ ∃ f, t.trace.head? = some (.done (.setSpeed f) none)) ∧
  (t.pu ≠ s.pu ∨ t.bci.ps s.params ≠ s.bci.ps s.params →
    t.pu = true ∧ t.trace.head? = some (.done .beginCmd none)) ∧
  t.params = s.params

theorem ConfigKept.rule (h : ConfigKept s t) : ConfigurationRule s t :=
  ⟨absurd h.timeout, fun hc => hc.elim (absurd h.speed) (absurd h.br),
    fun hc => hc.elim (absurd h.pu) (absurd h.ps), h.params⟩

theorem Accepted.configurationRule {i : Instr} (h : Accepted s i t) (hwf : s.params.wf = true) :
    ConfigurationRule s t := by
  cases h with
  | beginCmd =>
    have hk := busWrite_configKept (s := beginPresets s) hwf (wEnableWord s.params)
    exact ⟨absurd hk.timeout, fun _ => .inl rfl, fun _ => ⟨hk.pu, rfl⟩, hk.params⟩
  | endCmd => exact ConfigKept.rule { busWrite_configKept hwf wOffWord with }
  | timeoutCmd ms =>
    exact ⟨fun _ => ⟨ms, rfl, rfl⟩, fun hc => hc.elim (absurd rfl) (absurd rfl),
      fun hc => hc.elim (absurd rfl) (absurd rfl), rfl⟩
  | setSpeed fast =>
    exact ⟨absurd rfl, fun _ => .inr ⟨fast, rfl⟩, fun hc => hc.elim (absurd rfl) (absurd rfl), rfl⟩
  | write addr reg count => exact ConfigKept.rule ⟨rfl, rfl, rfl, rfl, rfl, rfl⟩
  | read addr reg count => exact ConfigKept.rule ⟨rfl, rfl, rfl, rfl, rfl, rfl⟩

end Configuration

/-- Settles O19: engine actions and the other agents keep the whole configuration, and each command has its own part. -/
theorem configurationChangesOnlyByItsCommands : Obligations.ConfigurationChangesOnlyByItsCommands := by
  intro s t hwf h
  obtain ⟨agenda, ha | ⟨w, rest, i, -, -, ha, hx⟩ | ⟨m, hm, hx⟩⟩ := step_cases h
  · exact (engineAction_configKept (s := { s with agenda := agenda }) hwf ha).rule
  · exact (exec_accepted (s := { s with agenda := agenda, port := rest }) ha hx).configurationRule hwf
  · exact (stepMove_configKept (s := { s with agenda := agenda }) hwf hm hx).rule

/-! ## RES -/

/-- No command writes RES when it is accepted (40_lifecycle.md R110). -/
theorem Accepted.res {s t : State} {i : Instr} (h : Accepted s i t) : t.res = s.res := by
  cases h with
  | beginCmd => exact busWrite_res _ _
  | endCmd => exact busWrite_res _ _
  | timeoutCmd | setSpeed | write | read => rfl

/-- Settles O55: only the end of a transaction writes RES, and an idle engine takes no action. -/
theorem resultChangesOnlyAtFinish : Obligations.ResultChangesOnlyAtFinish := by
  intro s t h
  obtain ⟨agenda, ha | ⟨w, rest, i, -, -, ha, hx⟩ | ⟨m, hm, hx⟩⟩ := step_cases h
  · by_cases hs : s.seq = .idle
    · exact .inl (by rw [engineAction_of_idle (s := { s with agenda := agenda }) hs ha])
    · exact (engineAction_result ha).imp_right (.intro hs)
  · exact .inl (exec_accepted (s := { s with agenda := agenda, port := rest }) ha hx).res
  · obtain ⟨hf, -⟩ := stepMove_cases hm hx
    exact .inl (by rw [hf])

/-! ## The status -/

/-- Of the seven words only W_OFF disables (30_encoding.md R85). -/
theorem eq_wOffWord_of_disables {p : Config.Params} (hwf : p.wf = true) {w : Byte} (hw : w ∈ controlWords p)
    (hen : w.getLsbD p.crEn = false) : w = wOffWord := by
  obtain ⟨⟨hstart, -⟩, ⟨hsend, -⟩, ⟨hrack, -⟩, ⟨hstop, -⟩, ⟨henable, -⟩⟩ := word_bits hwf
  simp only [controlWords, wRnackWord_eq, List.mem_cons, List.not_mem_nil, or_false] at hw
  obtain rfl | rfl | rfl | rfl | rfl | rfl | rfl := hw <;> simp_all

/-- The status is kept, or the step disables the BCI. -/
def StatusKeptOrOff (s t : State) : Prop :=
  t.bci.status s.params = s.bci.status s.params ∨
    (t.bci.on = false ∧ ∃ e, e ∈ t.trace.take 2 ∧ e = .crWrite 0x00#8)

section Status

variable {s t : State}

/-- The BCI and the trace after W_OFF, with at most a DONE after it. -/
theorem statusKeptOrOff_of_wOff (hb : t.bci = (busWrite wOffWord s).bci)
    (ht : t.trace = .crWrite 0x00#8 :: s.trace ∨ ∃ e, t.trace = e :: .crWrite 0x00#8 :: s.trace) :
    StatusKeptOrOff s t := by
  refine .inr ⟨by rw [hb, busWrite_bci, Bci.crWrite_wOff]; rfl, _, ?_, rfl⟩
  obtain ht | ⟨e, ht⟩ := ht <;> simp [ht]

theorem engineAction_statusKeptOrOff (hwf : s.params.wf = true) (h : engineAction s = .next t) :
    StatusKeptOrOff s t := by
  obtain ⟨-, hb | ⟨v, hb⟩ | ⟨w, hw, hb, ht⟩⟩ := engineAction_surroundings h
  · exact .inl (by rw [hb])
  · exact .inl (by rw [hb, Bci.status, Bci.drWrite_sr]; rfl)
  · cases hen : w.getLsbD s.params.crEn with
    | true => exact .inl (by rw [hb, Bci.status, Bci.crWrite_sr, if_pos hen]; rfl)
    | false =>
      obtain rfl := eq_wOffWord_of_disables hwf hw hen
      refine statusKeptOrOff_of_wOff (by rw [hb, busWrite_bci]) ?_
      obtain ⟨-, htr⟩ | ⟨-, htr⟩ := (afterControlWord_decision (busWrite wOffWord s)).result
      · exact .inl (by rw [ht, htr, busWrite_trace]; rfl)
      · exact .inr ⟨_, by rw [ht, htr, busWrite_trace]; rfl⟩

theorem Accepted.statusKeptOrOff {i : Instr} (h : Accepted s i t) (hwf : s.params.wf = true) :
    StatusKeptOrOff s t := by
  cases h with
  | beginCmd =>
    have hbci := (busWrite_bci (wEnableWord s.params) (beginPresets s)).trans (Bci.crWrite_wEnable _ _ hwf)
    exact .inl ((congrArg (Bci.status · s.params) hbci).trans (Bci.srPsWrite_status _ hwf _))
  | endCmd => exact statusKeptOrOff_of_wOff rfl (.inr ⟨_, congrArg _ (busWrite_trace _ _)⟩)
  | timeoutCmd | setSpeed | write | read => exact .inl rfl

/-- With INT = 1 nothing is in flight, so no completion writes the status (44_bus_controller.md R213). -/
theorem stepMove_statusKept {m : Move} (hi : Inv s) (hint : s.bci.int = true) (hm : m ≠ .engine)
    (h : stepMove m s = .next t) : t.bci.status s.params = s.bci.status s.params := by
  obtain ⟨-, hb | hb | ⟨hc, -⟩⟩ := stepMove_cases hm h
  · rw [hb]
  · rw [hb]; rfl
  · simp [Bci.canComplete, Bci.completes, hi.intNoEvent hint] at hc

end Status

/-- Settles O33: the engine's DR and CR writes keep the status but for W_OFF, and with INT = 1 no completion is
enabled. -/
theorem statusIsStableWhileTheFlagIsSet : Obligations.StatusIsStableWhileTheFlagIsSet := by
  intro s t hi h hint
  obtain ⟨agenda, ha | ⟨w, rest, i, -, -, ha, hx⟩ | ⟨m, hm, hx⟩⟩ := step_cases h
  · exact engineAction_statusKeptOrOff (s := { s with agenda := agenda }) hi.paramsWf ha
  · exact (exec_accepted (s := { s with agenda := agenda, port := rest }) ha hx).statusKeptOrOff hi.paramsWf
  · exact .inl (stepMove_statusKept (s := { s with agenda := agenda }) { hi with } hint hm hx)

end Sys2Proof.Machine

/-! # Proofs: who changes BUF, and what one step emits (20_memory.md)

An engine action is at most one action of 00_scope.md R9 (`OneAction`) and then a decision of the sequencer
(`Sequencing`). The action can write one byte of BUF, at P_BUFW; the decision
can draw the bytes of a failed READ; each emits at most one event. -/

namespace Sys2Proof.Machine

/-! ## The host and the BCI -/

theorem hostAccess_of_ready {s : State} {i : Nat} (f : State → State) (hr : s.ready = true)
    (hi : i < s.params.bufSize) : hostAccess i f s = .next (f s) :=
  (if_pos hr).trans (if_pos hi)

theorem hostAccess_of_busy {s : State} (i : Nat) (f : State → State) (hr : s.ready = false) :
    hostAccess i f s = .refused .hostBufAccessWhileBusy :=
  if_neg (ne_true_of_eq_false hr)

theorem hostRead_of_ready {s : State} {i : Nat} (hr : s.ready = true) (hi : i < s.params.bufSize) :
    hostRead i s = .next s :=
  hostAccess_of_ready (fun t => t) hr hi

theorem hostWrite_of_ready {s : State} {i : Nat} (b : Byte) (hr : s.ready = true) (hi : i < s.params.bufSize) :
    hostWrite i b s = .next { s with buf := bufSet s.buf i b } :=
  hostAccess_of_ready (fun t => { t with buf := bufSet t.buf i b }) hr hi

theorem hostRead_of_busy {s : State} (i : Nat) (hr : s.ready = false) :
    hostRead i s = .refused .hostBufAccessWhileBusy :=
  hostAccess_of_busy i _ hr

theorem hostWrite_of_busy {s : State} (i : Nat) (b : Byte) (hr : s.ready = false) :
    hostWrite i b s = .refused .hostBufAccessWhileBusy :=
  hostAccess_of_busy i _ hr

theorem bciComplete_frame (sigma delta : Byte) (s : State) :
    bciComplete sigma delta s = { s with bci := (bciComplete sigma delta s).bci } := by
  unfold bciComplete
  split_ifs <;> rfl

theorem bciStopDone_frame (s : State) : bciStopDone s = { s with bci := (bciStopDone s).bci } := by
  unfold bciStopDone
  split_ifs <;> rfl

/-- The BCI's own steps leave CR's other bits, BR and the clock latches of the event (44_bus_controller.md R213, R215). -/
theorem stepMove_bci_frame {s t : State} {m : Move} (hm : m ≠ .engine) (h : stepMove m s = .next t) :
    t.bci = { s.bci with int := t.bci.int, sto := t.bci.sto, sr := t.bci.sr, dr := t.bci.dr, evt := t.bci.evt,
                         busHeld := t.bci.busHeld, mode := t.bci.mode } := by
  obtain ⟨-, hb | hb | ⟨-, sigma, delta, hb⟩⟩ := stepMove_cases hm h <;> rw [hb] <;> rfl

/-- Which other agent writes which part of the machine: the BCI its registers, the Time Source NOW, the host BUF and the
port (20_memory.md R70, R71). -/
theorem stepMove_writer {s t : State} {m : Move} (hm : m ≠ .engine) (h : stepMove m s = .next t) :
    ((∀ sigma delta, m ≠ .complete sigma delta) → m ≠ .stopDone → t.bci = s.bci) ∧
    (m ≠ .tick → t.now = s.now) ∧
    ((∀ i b, m ≠ .hostWrite i b) → t.buf = s.buf) ∧
    ((∀ w, m ≠ .present w) → t.port = s.port) := by
  cases m with
  | engine => exact absurd rfl hm
  | complete sigma delta =>
    cases h
    rw [bciComplete_frame]
    exact ⟨fun hc => absurd rfl (hc sigma delta), fun _ => rfl, fun _ => rfl, fun _ => rfl⟩
  | stopDone =>
    cases h
    rw [bciStopDone_frame]
    exact ⟨fun _ hc => absurd rfl hc, fun _ => rfl, fun _ => rfl, fun _ => rfl⟩
  | tick => cases h; exact ⟨fun _ _ => rfl, absurd rfl, fun _ => rfl, fun _ => rfl⟩
  | present w => cases h; exact ⟨fun _ _ => rfl, fun _ => rfl, fun _ => rfl, fun hc => absurd rfl (hc w)⟩
  | hostRead i =>
    obtain ⟨-, rfl⟩ := hostAccess_next (show hostRead i s = .next t from h)
    exact ⟨fun _ _ => rfl, fun _ => rfl, fun _ => rfl, fun _ => rfl⟩
  | hostWrite i b =>
    obtain ⟨-, rfl⟩ := hostAccess_next (show hostWrite i b s = .next t from h)
    exact ⟨fun _ _ => rfl, fun _ => rfl, fun hc => absurd rfl (hc i b), fun _ => rfl⟩
  | foreignWrite r b => cases h

/-- Settles O31: the frame of a move of another agent, its BCI part, and who writes what. -/
theorem otherAgentsLeaveTheEngineAlone : Obligations.OtherAgentsLeaveTheEngineAlone := fun _ _ _ hwf hm h =>
  ⟨(stepMove_cases hm h).1, stepMove_bci_frame hm h, (stepMove_configKept hwf hm h).ps, stepMove_writer hm h⟩

/-- Settles O32: a host access is one of BUF's own operations while READY = 1, and is refused while READY = 0. -/
theorem hostAccessesBufOnlyWhileReady : Obligations.HostAccessesBufOnlyWhileReady := fun _ i b hi =>
  ⟨fun hr => hostRead_of_ready hr hi,
    fun hr hbuf => ⟨_, hostWrite_of_ready b hr hi, rfl, bufGet_bufSet_same hbuf i b,
      fun _ ha => bufGet_bufSet_other _ b ha⟩,
    fun hr => ⟨hostRead_of_busy i hr, hostWrite_of_busy i b hr⟩, fun _ => rfl⟩

/-! ## The action and the decision of an engine action -/

/-- The bytes of BUF a command may change: the first n' of a READ (41_transactions.md R132), none of any other. -/
def receivedBytes : Instr → Nat
  | .read _ _ count => recvCount count
  | _ => 0

/-- BUF reads the same at every index the command in progress may not change. -/
def OtherBytesKept (s t : State) : Prop :=
  ∀ a, receivedBytes (commandOf s) ≤ a → bufGet t.buf a = bufGet s.buf a

theorem receivedBytes_commandOf (s : State) :
    receivedBytes (commandOf s) = if s.opr then recvCount s.cnt else 0 := by
  unfold commandOf
  split_ifs <;> rfl

theorem bytesDrawn_le (s : State) (v : Byte) : bytesDrawn s v ≤ receivedBytes (commandOf s) := by
  rw [receivedBytes_commandOf, bytesDrawn]
  split_ifs with hdrawn hopr
  · exact le_rfl
  · simp [hopr] at hdrawn
  · exact Nat.zero_le _
  · exact le_rfl

theorem recvIndex_lt (s : State) : recvIndex s < recvCount s.cnt := by
  have hpos : 0 < recvCount s.cnt := by unfold recvCount; split_ifs <;> omega
  unfold recvIndex
  split_ifs with hack
  · have hidx : s.idx < recvCount s.cnt - 1 := of_decide_eq_true hack
    omega
  · omega

/-- A decision of the sequencer, which leaves BUF alone but for the bytes of a READ that fails. -/
structure Sequencing (s t : State) : Prop extends Decision s t where
  otherBytes : OtherBytesKept s t

/-- An action of 00_scope.md R9, or none: at most one event, no DONE; the command in progress stays, and BUF too but for
the byte that P_BUFW stores. -/
structure OneAction (s u : State) : Prop where
  command : commandOf u = commandOf s
  trace : u.trace = s.trace ∨ ∃ e, transactionDone e = false ∧ u.trace = e :: s.trace
  buf : u.buf = s.buf ∨ (s.ph = .bufw ∧ u.buf = bufSet s.buf (recvIndex s) s.rxByte)

theorem OneAction.none (s : State) : OneAction s s := ⟨rfl, .inl rfl, .inl rfl⟩

/-- An action that emits `e` and keeps the command and BUF. -/
theorem OneAction.emitting {s u : State} {e : Event} (ht : u.trace = e :: s.trace)
    (he : transactionDone e = false := by rfl) (hc : commandOf u = commandOf s := by rfl)
    (hb : u.buf = s.buf := by rfl) : OneAction s u :=
  ⟨hc, .inr ⟨e, he, ht⟩, .inl hb⟩

theorem OneAction.busWrite (w : Byte) (s : State) : OneAction s (busWrite w s) :=
  .emitting (busWrite_trace w s) (hc := by rw [busWrite_frame]; rfl) (hb := by rw [busWrite_frame])

theorem OneAction.drWrite (v : Byte) (s : State) : OneAction s (drWrite v s) := by
  rw [drWrite_frame]
  exact .emitting rfl

namespace Sequencing

variable (s : State)

/-- A decision that only moves the position. -/
theorem moveTo (q : Seq) (ph : Phase) (idx : Nat) : Sequencing s { s with seq := q, ph := ph, idx := idx } :=
  ⟨⟨rfl, .inl ⟨rfl, rfl⟩⟩, fun _ _ => rfl⟩

theorem finishTransaction (v : Byte) : Sequencing s (finishTransaction v s) :=
  ⟨⟨rfl, .inr ⟨rfl, rfl⟩⟩, fun _ ha => bufGet_bufDraw_other _ _ ((bytesDrawn_le s v).trans ha)⟩

theorem continueAfter : Sequencing s (continueAfter s) := by
  unfold Machine.continueAfter
  split
  case h_3 => unfold payloadLoop; split_ifs <;> exact moveTo s _ _ _
  case h_7 => exact finishTransaction s _
  case h_8 => exact finishTransaction s _
  all_goals exact moveTo s _ _ _

theorem returnWith (v : Byte) : Sequencing s (returnWith v s) := by
  obtain h | h | ⟨-, h⟩ := returnWith_cases v s <;> rw [h]
  · exact { continueAfter { s with rv := v } with }
  · exact { finishTransaction { s with rv := v } _ with }
  · exact { moveTo { s with rv := v } _ _ _ with }

theorem afterControlWord : Sequencing s (afterControlWord s) := by
  unfold Machine.afterControlWord
  split
  case h_3 => exact returnWith s _
  case h_6 => exact returnWith s _
  all_goals exact moveTo s _ _ _

theorem afterStore : Sequencing s (afterStore s) := by
  unfold Machine.afterStore
  split_ifs <;> exact moveTo s _ _ _

end Sequencing

/-- An action that leads from `s` to some state, and the decision that leads from there to `t`. -/
def ActionThenDecision (s t : State) : Prop := ∃ u, OneAction s u ∧ Sequencing u t

section Positions

variable (s : State)

theorem stepEntry_actionThenDecision : ActionThenDecision s (stepEntry s) := by
  unfold stepEntry
  split
  case h_2 => exact ⟨sampleT0 s, .emitting rfl, .moveTo _ _ _ _⟩
  case h_3 => exact ⟨s, .none s, .finishTransaction s _⟩
  all_goals exact ⟨s, .none s, .moveTo s _ _ _⟩

theorem stepPoll_actionThenDecision : ActionThenDecision s (stepPoll s) := by
  refine ⟨pollAction s, .emitting rfl, ?_⟩
  unfold stepPoll
  split_ifs
  · exact .returnWith _ _
  all_goals exact .moveTo _ _ _ _

theorem stepNestedPoll_actionThenDecision : ActionThenDecision s (stepNestedPoll s) := by
  refine ⟨pollAction s, .emitting rfl, ?_⟩
  unfold stepNestedPoll
  split_ifs
  · exact .returnWith _ _
  all_goals exact .moveTo _ _ _ _

theorem stepClock_actionThenDecision : ActionThenDecision s (stepClock s) := by
  refine ⟨clockAction s, .emitting rfl, ?_⟩
  unfold stepClock
  split_ifs <;> exact .moveTo _ _ _ _

theorem stepNestedClock_actionThenDecision : ActionThenDecision s (stepNestedClock s) := by
  refine ⟨clockAction s, .emitting rfl, ?_⟩
  unfold stepNestedClock
  split_ifs <;> exact .moveTo _ _ _ _

theorem stepEval_actionThenDecision : ActionThenDecision s (stepEval s) := by
  refine ⟨latchStatus s, .emitting rfl, ?_⟩
  unfold stepEval
  split
  · exact .moveTo _ _ _ _
  · dsimp only
    split
    · exact .returnWith _ _
    · exact .returnWith _ _
    · exact .moveTo _ _ _ _
    · exact .moveTo _ _ _ _

/-- The step of every position that writes no CR. -/
theorem plainStep_actionThenDecision : ActionThenDecision s (plainStep s) := by
  unfold plainStep
  split
  case h_1 => exact stepEntry_actionThenDecision s
  case h_2 => exact ⟨latchPayload s.idx s, .emitting rfl, .moveTo _ _ _ _⟩
  case h_3 => exact ⟨_, .drWrite _ s, .moveTo _ _ _ _⟩
  case h_4 => exact ⟨sampleT0 s, .emitting rfl, .moveTo _ _ _ _⟩
  case h_5 => exact stepPoll_actionThenDecision s
  case h_6 => exact stepClock_actionThenDecision s
  case h_7 => exact stepEval_actionThenDecision s
  case h_8 => exact ⟨latchReceived s, .emitting rfl, .moveTo _ _ _ _⟩
  case h_9 hp => exact ⟨bufWrite (recvIndex s) s.rxByte s, ⟨rfl, .inr ⟨_, rfl, rfl⟩, .inr ⟨hp, rfl⟩⟩, .afterStore _⟩
  case h_10 => exact ⟨sampleT0 s, .emitting rfl, .moveTo _ _ _ _⟩
  case h_11 => exact stepNestedPoll_actionThenDecision s
  case h_12 => exact stepNestedClock_actionThenDecision s
  all_goals exact ⟨s, .none s, .moveTo s _ _ _⟩

end Positions

/-- Everything an engine action can do (20_memory.md R66): at most one action, and the decision after it. -/
theorem engineAction_actionThenDecision {s t : State} (h : engineAction s = .next t) : ActionThenDecision s t := by
  obtain rfl | ⟨w, -, rfl⟩ := engineAction_plain_or_write h
  · exact plainStep_actionThenDecision s
  · exact ⟨_, .busWrite w s, .afterControlWord _⟩

/-- The byte P_BUFW stores is one of the n' of a READ (41_transactions.md R132, 10_state.md R23). -/
theorem OneAction.otherBytesKept {s u : State} (h : OneAction s u) (hi : Inv s) : OtherBytesKept s u := by
  intro a ha
  obtain hb | ⟨hp, hb⟩ := h.buf <;> rw [hb]
  have hseq : s.seq = .tRdata := positionUsed_bufw (hp ▸ hi.position)
  have hopr : s.opr = true := hi.readSteps (.inr (.inr hseq))
  rw [receivedBytes_commandOf, if_pos hopr] at ha
  exact bufGet_bufSet_other _ _ ((recvIndex_lt s).trans_le ha).ne'

theorem engineAction_otherBytesKept {s t : State} (hi : Inv s) (h : engineAction s = .next t) :
    OtherBytesKept s t := by
  obtain ⟨u, hact, hseq⟩ := engineAction_actionThenDecision h
  intro a ha
  calc bufGet t.buf a
      _ = bufGet u.buf a := hseq.otherBytes a (by rwa [hact.command])
      _ = bufGet s.buf a := hact.otherBytesKept hi a ha

/-- Settles O54: a WRITE may change no byte of BUF, a READ its first n'. -/
theorem transactionsLeaveTheRestOfBufAlone : Obligations.TransactionsLeaveTheRestOfBufAlone := by
  intro s t hi h
  have hkept := engineAction_otherBytesKept hi h
  unfold OtherBytesKept at hkept
  rw [receivedBytes_commandOf] at hkept
  refine ⟨fun ho a => hkept a ?_, fun ho a ha => hkept a ?_⟩
  · simp [ho]
  · rwa [if_pos ho]

/-- Settles O56: the action emits at most one event and no DONE, and the decision after it at most the transaction's
DONE; a move of another agent does not touch the trace. -/
theorem engineTakesOneActionAtATime : Obligations.EngineTakesOneActionAtATime := by
  refine ⟨fun s t h => ?_, fun s t m hm h => by rw [(stepMove_cases hm h).1]⟩
  obtain ⟨u, hact, hseq⟩ := engineAction_actionThenDecision h
  obtain ⟨-, hdecision⟩ | ⟨hidle, hdecision⟩ := hseq.result <;> rw [hdecision]
  · exact hact.trace.imp_right fun ⟨e, _, he⟩ => .inl ⟨e, he⟩
  · rw [hact.command]
    obtain hu | ⟨e, he, hu⟩ := hact.trace <;> rw [hu]
    · exact .inr (.inl ⟨_, rfl⟩)
    · exact .inr (.inr ⟨e, he, rfl, hidle⟩)

end Sys2Proof.Machine

/-! # Proofs: the encoding (30_encoding.md)

A command word decodes exactly to the instruction whose OP, reserved bits and fields it holds (`Holds`). A row of the
opcode map covers a word exactly when OP is the row's and the reserved bits are 0, and a word is put together again from
its fields, so the decoder, the encoder and the map speak of the same words. The control words are told apart by the
five CR bits that they set. -/

namespace Sys2Proof

/-! ## What the decoder reads -/

/-- The word holds the instruction: its OP, reserved bits of 0, and its operands in their fields (R81 to R83). -/
inductive Holds (p : Config.Params) (w : CommandWord) : Instr → Prop where
  | beginCmd (hop : opField w = 0x0#4) (hres : reservedN w = 0) : Holds p w .beginCmd
  | endCmd (hop : opField w = 0x1#4) (hres : reservedN w = 0) : Holds p w .endCmd
  | timeoutCmd {ms : Nat} (hop : opField w = 0x2#4) (hres : reservedT p w = 0) (hms : msField p w = ms) :
    Holds p w (.timeoutCmd ms)
  | setSpeed {fast : Bool} (hop : opField w = 0x3#4) (hres : reservedS w = 0) (hfast : fastField w = fast) :
    Holds p w (.setSpeed fast)
  | write {addr : SlaveAddr} {reg : Byte} {count : Nat} (hop : opField w = 0x4#4) (hres : reservedX p w = 0)
    (haddr : addrField p w = addr) (hreg : regField p w = reg) (hcount : countField p w = count) :
    Holds p w (.write addr reg count)
  | read {addr : SlaveAddr} {reg : Byte} {count : Nat} (hop : opField w = 0x5#4) (hres : reservedX p w = 0)
    (haddr : addrField p w = addr) (hreg : regField p w = reg) (hcount : countField p w = count) :
    Holds p w (.read addr reg count)

variable {p : Config.Params} {w v : CommandWord}

/-- Everything the decoder of command words does (R81, R84). -/
theorem decodeCommand_eq_ok {i : Instr} : decodeCommand p w = .ok i ↔ Holds p w i := by
  constructor
  · intro h
    unfold decodeCommand at h
    split_ifs at h with hop hres hop hres hop hres hop hres hop hres hop hres <;> cases h
    · exact .beginCmd hop hres
    · exact .endCmd hop hres
    · exact .timeoutCmd hop hres rfl
    · exact .setSpeed hop hres rfl
    · exact .write hop hres rfl rfl rfl
    · exact .read hop hres rfl rfl rfl
  · intro h
    cases h <;> simp [decodeCommand, *]

/-! ## A word is its fields -/

/-- Words that agree below `low` and in the `k` bits from there agree in all these bits. -/
theorem extract_eq_append {low k n : Nat} (hn : low + k = n) (hlow : w.extractLsb' 0 low = v.extractLsb' 0 low)
    (hk : w.extractLsb' low k = v.extractLsb' low k) : w.extractLsb' 0 n = v.extractLsb' 0 n := by
  apply BitVec.eq_of_getLsbD_eq
  intro i hi
  by_cases h : i < low
  · have hb := congrArg (·.getLsbD i) hlow
    simpa [h, hi] using hb
  · have hb := congrArg (·.getLsbD (i - low)) hk
    simpa [hi, show i - low < k by omega, show low + (i - low) = i by omega] using hb

/-- Words with the same OP that agree below it are equal. -/
theorem eq_of_opField (hop : opField w = opField v) (h : w.extractLsb' 0 28 = v.extractLsb' 0 28) : w = v := by
  have h32 : w.extractLsb' 0 32 = v.extractLsb' 0 32 := extract_eq_append rfl h hop
  simpa using h32

theorem eq_formatN {op : BitVec 4} (hop : opField w = op) (hres : reservedN w = 0) : w = formatN op :=
  eq_of_opField (by simp [hop]) (hres.trans (reservedN_formatN op).symm)

theorem eq_formatT {op : BitVec 4} {ms : Nat} (hp : p.timeoutW ≤ 28) (hop : opField w = op) (hres : reservedT p w = 0)
    (hms : msField p w = ms) : w = formatT op ms := by
  have hfit : ms < 2 ^ p.timeoutW := hms ▸ BitVec.isLt _
  have h28 : ms < 2 ^ 28 := hfit.trans_le (Nat.pow_le_pow_right (by omega) hp)
  exact eq_of_opField (hop.trans (opField_formatT op h28).symm) <|
    extract_eq_append (show p.timeoutW + (28 - p.timeoutW) = 28 by omega)
      (BitVec.eq_of_toNat_eq (hms.trans (msField_formatT op hfit hp).symm))
      (hres.trans (reservedT_formatT op hfit).symm)

theorem eq_formatS {op : BitVec 4} {fast : Bool} (hop : opField w = op) (hres : reservedS w = 0)
    (hfast : fastField w = fast) : w = formatS op fast := by
  have hbit : w.extractLsb' 0 1 = (formatS op fast).extractLsb' 0 1 := by
    apply BitVec.eq_of_getLsbD_eq
    intro i hi
    obtain rfl : i = 0 := by omega
    rw [BitVec.getLsbD_extractLsb', BitVec.getLsbD_extractLsb']
    exact congrArg _ (hfast.trans (fastField_formatS op fast).symm)
  exact eq_of_opField (by simp [hop]) (extract_eq_append rfl hbit (hres.trans (reservedS_formatS op fast).symm))

theorem eq_formatX {op : BitVec 4} {addr : SlaveAddr} {reg : Byte} {count : Nat} (hp : p.countW ≤ 13)
    (hop : opField w = op) (hres : reservedX p w = 0) (haddr : addrField p w = addr) (hreg : regField p w = reg)
    (hcount : countField p w = count) : w = formatX p op addr reg count := by
  have hfit : count < 2 ^ p.countW := hcount ▸ BitVec.isLt _
  have hlow := BitVec.eq_of_toNat_eq (hcount.trans (countField_formatX op addr reg hfit hp).symm)
  have hmid := extract_eq_append rfl hlow (hreg.trans (regField_formatX op addr reg hfit hp).symm)
  have hhigh := extract_eq_append rfl hmid (haddr.trans (addrField_formatX op addr reg hfit hp).symm)
  exact eq_of_opField (hop.trans (opField_formatX op addr reg hfit hp).symm) <|
    extract_eq_append (by omega) hhigh (hres.trans (reservedX_formatX op addr reg hfit).symm)

/-! ## The encoder and the decoder -/

theorem wf_formatWidths (h : p.wf = true) : p.timeoutW ≤ 28 ∧ p.countW ≤ 13 := by
  simp only [Config.Params.wf, Config.Params.widthsOk, Bool.and_eq_true, decide_eq_true_eq] at h
  obtain ⟨-, ⟨⟨-, ht⟩, -⟩, ⟨-, hc⟩, -⟩ := h
  exact ⟨ht, hc⟩

/-- A word that holds an instruction is the one the encoder gives it. -/
theorem Holds.encode_eq {i : Instr} (h : Holds p w i) (hp : p.wf = true) : encode p i = .command w := by
  obtain ⟨ht, hc⟩ := wf_formatWidths hp
  cases h with
  | beginCmd hop hres => exact congrArg _ (eq_formatN hop hres).symm
  | endCmd hop hres => exact congrArg _ (eq_formatN hop hres).symm
  | timeoutCmd hop hres hms => exact congrArg _ (eq_formatT ht hop hres hms).symm
  | setSpeed hop hres hfast => exact congrArg _ (eq_formatS hop hres hfast).symm
  | write hop hres haddr hreg hcount => exact congrArg _ (eq_formatX hc hop hres haddr hreg hcount).symm
  | read hop hres haddr hreg hcount => exact congrArg _ (eq_formatX hc hop hres haddr hreg hcount).symm

/-- The word the encoder gives a well-formed command holds it. -/
theorem holds_of_encode {i : Instr} (hp : p.wf = true) (hi : i.wellFormed p = true) (h : encode p i = .command w) :
    Holds p w i := by
  obtain ⟨ht, hc⟩ := wf_formatWidths hp
  cases i with
  | beginCmd => exact Encoded.command.inj h ▸ .beginCmd (opField_formatN _) (reservedN_formatN _)
  | endCmd => exact Encoded.command.inj h ▸ .endCmd (opField_formatN _) (reservedN_formatN _)
  | timeoutCmd ms =>
    cases h
    have hfit : ms < 2 ^ p.timeoutW := of_decide_eq_true hi
    have h28 : ms < 2 ^ 28 := hfit.trans_le (Nat.pow_le_pow_right (by omega) ht)
    exact .timeoutCmd (opField_formatT 0x2#4 h28) (reservedT_formatT 0x2#4 hfit) (msField_formatT 0x2#4 hfit ht)
  | setSpeed fast =>
    cases h
    exact .setSpeed (opField_formatS _ fast) (reservedS_formatS _ fast) (fastField_formatS _ fast)
  | write addr reg count =>
    cases h
    have hfit : count < 2 ^ p.countW := of_decide_eq_true hi
    exact .write (opField_formatX _ addr reg hfit hc) (reservedX_formatX _ addr reg hfit)
      (addrField_formatX _ addr reg hfit hc) (regField_formatX _ addr reg hfit hc)
      (countField_formatX _ addr reg hfit hc)
  | read addr reg count =>
    cases h
    have hfit : count < 2 ^ p.countW := of_decide_eq_true hi
    exact .read (opField_formatX _ addr reg hfit hc) (reservedX_formatX _ addr reg hfit)
      (addrField_formatX _ addr reg hfit hc) (regField_formatX _ addr reg hfit hc)
      (countField_formatX _ addr reg hfit hc)
  | wStart | wSend | wRack | wRnack | wStop | wEnable | wOff => cases h

/-! ## Control words -/

/-- The CR bits that tell the control words apart. -/
def crBits (p : Config.Params) (c : Byte) : List Bool :=
  [p.crEn, p.crInt, p.crSta, p.crSto, p.crEa].map fun i : BitPos => c.getLsbD i

/-- The six values of the control words are different; W_RNACK's is W_SEND's (R85). -/
theorem controlWords_distinct (hp : p.wf = true) :
    [wOffWord, wEnableWord p, wStopWord p, wSendWord p, wRackWord p, wStartWord p].Nodup := by
  apply List.Nodup.of_map (crBits p)
  simp only [crBits, List.map, Machine.word_bits hp, wOffWord, BitVec.getLsbD_zero]
  decide

/-- A control word is told from the others, and W_RNACK from W_SEND by the step it stands in (R287). -/
theorem decodeControl_of_encode {i : Instr} {c : Byte} (hp : p.wf = true) (h : encode p i = .control c) :
    decodeControl p i.isReceive c = .ok i := by
  have hne := controlWords_distinct hp
  simp only [List.nodup_cons, List.mem_cons, List.not_mem_nil, or_false, not_or] at hne
  cases i <;> cases h <;> simp [decodeControl, Instr.isReceive, Machine.wRnackWord_eq, hne]

/-- Settles O5: a command word holds the instruction it encodes, and a control word differs from the others. -/
theorem decodingAnEncodedInstructionGivesItBack : Obligations.DecodingAnEncodedInstructionGivesItBack := by
  intro p i hp hi
  cases he : encode p i with
  | command w => exact decodeCommand_eq_ok.mpr (holds_of_encode hp hi he)
  | control c => exact decodeControl_of_encode hp he

/-! ## The opcode map -/

theorem getLsbD_bitsFrom (low i : Nat) : (bitsFrom low).getLsbD i = (decide (i < 32) && decide (low ≤ i)) := by
  have hones : (0xFFFFFFFF#32 : CommandWord) = BitVec.allOnes 32 := by decide
  rw [bitsFrom, hones, BitVec.getLsbD_shiftLeft, BitVec.getLsbD_allOnes]
  by_cases h : i < 32 <;> by_cases hl : low ≤ i <;> simp [h, hl]
  omega

/-- A mask keeps what stands from its first bit on. -/
theorem extract_masked {low start len : Nat} (hl : low ≤ start) (h32 : start + len ≤ 32) :
    (w &&& bitsFrom low).extractLsb' start len = w.extractLsb' start len := by
  apply BitVec.eq_of_getLsbD_eq
  intro i hi
  simp only [BitVec.getLsbD_extractLsb', BitVec.getLsbD_and, getLsbD_bitsFrom]
  simp [show start + i < 32 by omega, show low ≤ start + i by omega]

/-- A mask clears what stands below its first bit. -/
theorem extract_masked_low (low : Nat) : (w &&& bitsFrom low).extractLsb' 0 low = 0 :=
  extract_eq_zero fun i hi => by
    rw [BitVec.getLsbD_and, getLsbD_bitsFrom]
    simp; omega

/-- Below OP a word in format N is 0. -/
theorem extract_formatN (op : BitVec 4) {low n : Nat} (hn : low + n = 28) : (formatN op).extractLsb' low n = 0 :=
  extract_eq_zero fun i hi => by
    rw [getLsbD_formatN]
    simp; omega

/-- A row whose mask begins at bit `low` covers the words with its OP and 0 from there up to OP (R82). -/
theorem covers_iff {r : OpcodeRow} {op : BitVec 4} (low n : Nat) (hn : low + n = 28)
    (hr : r = ⟨formatN op, bitsFrom low⟩) : r.covers w = true ↔ opField w = op ∧ w.extractLsb' low n = 0 := by
  have hop : opField (w &&& bitsFrom low) = opField w := extract_masked (by omega) (by omega)
  have hres : (w &&& bitsFrom low).extractLsb' low n = w.extractLsb' low n := extract_masked le_rfl (by omega)
  rw [hr, OpcodeRow.covers, beq_iff_eq, ← hop, ← hres]
  constructor
  · intro h
    exact h ▸ ⟨opField_formatN op, extract_formatN op hn⟩
  · rintro ⟨hop, hres⟩
    have hzero := extract_eq_append (v := 0) hn ((extract_masked_low low).trans BitVec.extractLsb'_zero.symm)
      (hres.trans BitVec.extractLsb'_zero.symm)
    exact eq_formatN hop (hzero.trans BitVec.extractLsb'_zero)

theorem covers_beginRow : beginRow.covers w = true ↔ opField w = 0x0#4 ∧ reservedN w = 0 :=
  covers_iff 0 28 rfl (by decide)

theorem covers_endRow : endRow.covers w = true ↔ opField w = 0x1#4 ∧ reservedN w = 0 :=
  covers_iff 0 28 rfl (by decide)

theorem covers_setSpeedRow : setSpeedRow.covers w = true ↔ opField w = 0x3#4 ∧ reservedS w = 0 :=
  covers_iff 1 27 rfl (by decide)

theorem covers_timeoutRow (hp : p.wf = true) :
    (timeoutRow p).covers w = true ↔ opField w = 0x2#4 ∧ reservedT p w = 0 :=
  covers_iff p.timeoutW _ (Nat.add_sub_cancel' (wf_formatWidths hp).1) rfl

theorem covers_writeRow (hp : p.wf = true) :
    (writeRow p).covers w = true ↔ opField w = 0x4#4 ∧ reservedX p w = 0 := by
  have hc := (wf_formatWidths hp).2
  exact covers_iff (p.countW + 15) _ (by omega) rfl

theorem covers_readRow (hp : p.wf = true) :
    (readRow p).covers w = true ↔ opField w = 0x5#4 ∧ reservedX p w = 0 := by
  have hc := (wf_formatWidths hp).2
  exact covers_iff (p.countW + 15) _ (by omega) rfl

/-- A word holds an instruction exactly when a row covers it (R84). -/
theorem exists_holds_iff (hp : p.wf = true) : (∃ i, Holds p w i) ↔ commandWellFormed p w = true := by
  simp only [commandWellFormed, opcodeMap, List.any_cons, List.any_nil, Bool.or_false, Bool.or_eq_true,
    covers_beginRow, covers_endRow, covers_timeoutRow hp, covers_setSpeedRow, covers_writeRow hp, covers_readRow hp]
  constructor
  · rintro ⟨i, h⟩
    cases h <;> simp [*]
  · rintro (⟨hop, hres⟩ | ⟨hop, hres⟩ | ⟨hop, hres⟩ | ⟨hop, hres⟩ | ⟨hop, hres⟩ | ⟨hop, hres⟩)
    · exact ⟨_, .beginCmd hop hres⟩
    · exact ⟨_, .endCmd hop hres⟩
    · exact ⟨_, .timeoutCmd hop hres rfl⟩
    · exact ⟨_, .setSpeed hop hres rfl⟩
    · exact ⟨_, .write hop hres rfl rfl rfl⟩
    · exact ⟨_, .read hop hres rfl rfl rfl⟩

/-- The pattern of a row is the OP of every word it covers. -/
theorem pattern_of_covers (hp : p.wf = true) {r : OpcodeRow} (hr : r ∈ opcodeMap p) (h : r.covers w = true) :
    r.pattern = formatN (opField w) := by
  simp only [opcodeMap, List.mem_cons, List.not_mem_nil, or_false] at hr
  obtain rfl | rfl | rfl | rfl | rfl | rfl := hr
  · rw [(covers_beginRow.mp h).1]; rfl
  · rw [(covers_endRow.mp h).1]; rfl
  · rw [((covers_timeoutRow hp).mp h).1]; rfl
  · rw [(covers_setSpeedRow.mp h).1]; rfl
  · rw [((covers_writeRow hp).mp h).1]; rfl
  · rw [((covers_readRow hp).mp h).1]; rfl

/-- No two rows of the map have the same pattern. -/
theorem opcodeMap_pattern_nodup (p : Config.Params) : ((opcodeMap p).map OpcodeRow.pattern).Nodup := by
  simp only [opcodeMap, List.map, beginRow, endRow, timeoutRow, setSpeedRow, writeRow, readRow]
  decide

/-- Settles O6: both the decoder and the map look at OP and the reserved bits, the rows differ in OP, and a word is put
together again from its fields. -/
theorem commandWordsDecodeExactlyWhenARowCovers : Obligations.CommandWordsDecodeExactlyWhenARowCovers := by
  intro p w hp
  simp only [decodeCommand_eq_ok]
  refine ⟨exists_holds_iff hp, fun hw => ?_, fun i h => ⟨?_, h.encode_eq hp⟩⟩
  · obtain ⟨r, hr, hrw⟩ := List.any_eq_true.mp hw
    refine ⟨r, hr, hrw, fun q hq hqw => ?_⟩
    exact List.inj_on_of_nodup_map (opcodeMap_pattern_nodup p) hq hr
      ((pattern_of_covers hp hq hqw).trans (pattern_of_covers hp hr hrw).symm)
  · exact Machine.decodeCommand_wellFormed (decodeCommand_eq_ok.mpr h)

/-! ## Ill-formed words (R84) -/

/-- A word with a reserved OP, or with a nonzero reserved bit of its format. -/
def IllFormed (p : Config.Params) (w : CommandWord) : Prop :=
  6 ≤ (opField w).toNat ∨ (opField w).toNat ≤ 1 ∧ reservedN w ≠ 0 ∨ opField w = 2#4 ∧ reservedT p w ≠ 0 ∨
    opField w = 3#4 ∧ reservedS w ≠ 0 ∨ (opField w = 4#4 ∨ opField w = 5#4) ∧ reservedX p w ≠ 0

theorem Holds.not_illFormed {i : Instr} (h : Holds p w i) : ¬ IllFormed p w := by
  cases h <;> simp [IllFormed, *]

/-! ## Fixed words and presets -/

/-- Settles O7, by running the decoder on each word. -/
theorem wordsOfTheSpecDecode : Obligations.WordsOfTheSpecDecode := by
  refine ⟨?_, ?_, ?_⟩ <;> rintro p rfl <;> decide

/-- A preset that fits a byte loses nothing in it (R7(e)). -/
theorem toNat_ofNat_divider {hz f : Nat} (h : Config.divider hz f ≤ 255) :
    (BitVec.ofNat 8 (Config.divider hz f)).toNat = Config.divider hz f :=
  Nat.mod_eq_of_lt (by omega)

/-- Settles O18: the slow preset is the larger one, so if it fits a byte the fast one does. -/
theorem dividerPresets : Obligations.DividerPresets := by
  intro hz _ hslow
  have hfast : (hz / 400000 - 16) / 2 ≤ 255 := by omega
  refine ⟨toNat_ofNat_divider hslow, toNat_ofNat_divider hfast, ?_, rfl⟩
  rintro rfl
  decide

end Sys2Proof

namespace Sys2Proof.Machine

/-! ## Refusal of ill-formed words -/

/-- The engine's turn is an engine step, its move taken from the agenda. -/
theorem step_engine_turn {s : State} (h : (nextMove s).1 = .engine) :
    ∃ agenda, step s = engineStep { s with agenda := agenda } := by
  cases ha : s.agenda with
  | nil => exact ⟨s.agenda, step_agenda_nil ha⟩
  | cons m rest =>
    obtain rfl : m = .engine := by simpa [nextMove, ha] using h
    exact ⟨rest, step_agenda_cons ha⟩

theorem engineStep_refused {s : State} {w : CommandWord} {rest : List CommandWord} (hport : s.port = w :: rest)
    (hd : ∀ i, decodeCommand s.params w ≠ .ok i) : engineStep s = .refused .illFormedCommand := by
  unfold engineStep
  rw [hport]
  cases hw : decodeCommand s.params w with
  | error e => simp only [hw]
  | ok i => exact absurd hw (hd i)

/-- Settles O9: an ill-formed word holds no instruction, and the engine refuses a head that does not decode. -/
theorem illFormedCommandWordsAreRefused : Obligations.IllFormedCommandWordsAreRefused := by
  intro s w rest hturn hport hill
  obtain ⟨agenda, hstep⟩ := step_engine_turn hturn
  rw [hstep]
  exact engineStep_refused hport fun i hd => (decodeCommand_eq_ok.mp hd).not_illFormed hill

/-! ## The words a step writes to CR -/

/-- The CR bits no control word sets: WC, IE and the reserved one (R85). -/
theorem controlWord_clear {p : Config.Params} {w : Byte} (hw : w ∈ controlWords p) {i : BitPos}
    (hi : i ∉ [p.crInt, p.crEa, p.crSta, p.crSto, p.crEn]) : w.getLsbD i = false := by
  have hbit : ∀ j ∈ [p.crInt, p.crEa, p.crSta, p.crSto, p.crEn], (bit j).getLsbD i = false := by
    intro j hj
    rw [getLsbD_bit]
    exact decide_eq_false fun hji => hi (hji ▸ hj)
  simp only [controlWords, List.mem_cons, List.not_mem_nil, or_false] at hw
  obtain rfl | rfl | rfl | rfl | rfl | rfl | rfl := hw <;>
    simp only [wStartWord, wSendWord, wRackWord, wRnackWord, wStopWord, wEnableWord, wOffWord, BitVec.getLsbD_or, hbit,
      List.mem_cons, true_or, or_true, Bool.or_false, BitVec.getLsbD_zero]

/-- Where CR has no named bit a control word has 0 (R85). -/
theorem controlWord_reserved {p : Config.Params} {w : Byte} (hw : w ∈ controlWords p) : w &&& ~~~p.crNamed = 0#8 := by
  apply BitVec.eq_of_getLsbD_eq
  intro n hn
  obtain ⟨i, rfl⟩ : ∃ i : BitPos, i.val = n := ⟨⟨n, hn⟩, rfl⟩
  rw [BitVec.getLsbD_and, BitVec.getLsbD_not, getLsbD_crNamed]
  by_cases hi : i ∈ p.crPositions
  · simp [hi]
  · simp only [Config.Params.crPositions, List.mem_cons, not_or] at hi
    rw [controlWord_clear hw (by simp [hi]), Bool.false_and, BitVec.getLsbD_zero]

/-- WC and IE are positions of their own. -/
theorem controlWord_wc_ie {p : Config.Params} (hp : p.wf = true) {w : Byte} (hw : w ∈ controlWords p) :
    w.getLsbD p.crWc = false ∧ w.getLsbD p.crIe = false := by
  have hd := wf_positions hp
  simp only [Config.Params.crPositions, List.nodup_cons, List.mem_cons, List.not_mem_nil, or_false, not_or] at hd
  constructor <;> apply controlWord_clear hw <;> simp only [List.mem_cons, List.not_mem_nil, or_false] <;> grind

theorem crWords_append (a b : List Event) : crWords (a ++ b) = crWords a ++ crWords b := by
  induction a with
  | nil => rfl
  | cons e a ih => cases e <;> simp [crWords, ih]

/-- From `s` to `t` events are only added, and of the words written to CR only those in `ws`. -/
def WritesOnly (ws : List Byte) (s t : State) : Prop :=
  ∃ new, t.trace = new ++ s.trace ∧ crWords new ⊆ ws

namespace WritesOnly

variable {ws : List Byte} {s u t : State}

theorem nothing (ht : t.trace = s.trace) : WritesOnly ws s t := ⟨[], ht, List.nil_subset _⟩

theorem event {e : Event} (ht : t.trace = e :: s.trace) (he : crWords [e] = [] := by rfl) : WritesOnly ws s t :=
  ⟨[e], ht, he ▸ List.nil_subset _⟩

theorem busWrite {w : Byte} (hw : w ∈ ws) (s : State) : WritesOnly ws s (busWrite w s) :=
  ⟨[.crWrite w], busWrite_trace w s, by simpa [crWords] using hw⟩

theorem trans (h : WritesOnly ws s u) (h' : WritesOnly ws u t) : WritesOnly ws s t := by
  obtain ⟨new, hu, hnew⟩ := h
  obtain ⟨new', ht, hnew'⟩ := h'
  refine ⟨new' ++ new, by rw [ht, hu, List.append_assoc], ?_⟩
  rw [crWords_append]
  exact List.append_subset.mpr ⟨hnew', hnew⟩

end WritesOnly

theorem Decision.writesOnly {ws : List Byte} {s t : State} (h : Decision s t) : WritesOnly ws s t := by
  obtain ⟨-, ht⟩ | ⟨-, ht⟩ := h.result
  · exact .nothing ht
  · exact .event ht

/-! The positions that write no CR: an event that is no CR write, and a decision. -/

section Positions

variable {ws : List Byte} (s : State)

theorem returnWith_writesOnly {u : State} (v : Byte) {e : Event} (hu : u.trace = e :: s.trace)
    (he : crWords [e] = [] := by rfl) : WritesOnly ws s (returnWith v u) :=
  (WritesOnly.event hu he).trans (returnWith_decision v u).writesOnly

theorem stepEntry_writesOnly : WritesOnly ws s (stepEntry s) := by
  unfold stepEntry
  split
  case h_2 => exact .event rfl
  case h_3 => exact .event rfl
  all_goals exact .nothing rfl

theorem stepPoll_writesOnly : WritesOnly ws s (stepPoll s) := by
  unfold stepPoll
  split_ifs
  · exact returnWith_writesOnly s _ rfl
  all_goals exact .event rfl

theorem stepClock_writesOnly : WritesOnly ws s (stepClock s) := by
  unfold stepClock
  split_ifs <;> exact .event rfl

theorem stepEval_writesOnly : WritesOnly ws s (stepEval s) := by
  unfold stepEval
  split
  · exact .event rfl
  · dsimp only
    split
    · exact returnWith_writesOnly s _ rfl
    · exact returnWith_writesOnly s _ rfl
    · exact .event rfl
    · exact .event rfl

theorem stepBufw_writesOnly : WritesOnly ws s (stepBufw s) := by
  unfold stepBufw afterStore
  split_ifs <;> exact .event rfl

theorem stepNestedPoll_writesOnly : WritesOnly ws s (stepNestedPoll s) := by
  unfold stepNestedPoll
  split_ifs
  · exact returnWith_writesOnly s _ rfl
  all_goals exact .event rfl

theorem stepNestedClock_writesOnly : WritesOnly ws s (stepNestedClock s) := by
  unfold stepNestedClock
  split_ifs <;> exact .event rfl

theorem stepDr_writesOnly : WritesOnly ws s (stepDr s) := by
  unfold stepDr
  rw [drWrite_frame]
  exact .event rfl

/-- A position that writes no CR adds no CR write, so the words allowed do not matter. -/
theorem plainStep_writesOnly : WritesOnly ws s (plainStep s) := by
  unfold plainStep
  split
  case h_1 => exact stepEntry_writesOnly s
  case h_3 => exact stepDr_writesOnly s
  case h_5 => exact stepPoll_writesOnly s
  case h_6 => exact stepClock_writesOnly s
  case h_7 => exact stepEval_writesOnly s
  case h_9 => exact stepBufw_writesOnly s
  case h_11 => exact stepNestedPoll_writesOnly s
  case h_12 => exact stepNestedClock_writesOnly s
  case h_2 | h_4 | h_8 | h_10 => exact .event rfl
  all_goals exact .nothing rfl

end Positions

theorem engineAction_writesOnly {s t : State} (h : engineAction s = .next t) :
    WritesOnly (controlWords s.params) s t := by
  obtain rfl | ⟨w, hw, rfl⟩ := engineAction_plain_or_write h
  · exact plainStep_writesOnly s
  · exact (WritesOnly.busWrite hw s).trans (afterControlWord_decision _).writesOnly

/-- Of the commands BEGIN writes W_ENABLE and END W_OFF (40_lifecycle.md R111, R112). -/
theorem Accepted.writesOnly {s t : State} {i : Instr} (h : Accepted s i t) :
    WritesOnly (controlWords s.params) s t := by
  have finish {u : State} (cmd : Instr) : WritesOnly (controlWords s.params) u (finishLifecycle cmd u) := .event rfl
  cases h with
  | beginCmd =>
    have presets : WritesOnly (controlWords s.params) s (beginPresets s) :=
      ⟨[.brWrite s.params.brSlow, .srPsWrite s.params.psBase, .puWrite true], rfl, List.nil_subset _⟩
    exact (presets.trans (.busWrite (by simp [controlWords]) _)).trans (finish _)
  | endCmd => exact (WritesOnly.busWrite (by simp [controlWords]) s).trans (finish _)
  | timeoutCmd ms => exact .event rfl
  | setSpeed fast => exact ⟨[.done (.setSpeed fast) none, .brWrite _], rfl, List.nil_subset _⟩
  | write addr reg count => exact .nothing rfl
  | read addr reg count => exact .nothing rfl

theorem step_writesOnly {s t : State} (h : step s = .next t) : WritesOnly (controlWords s.params) s t := by
  obtain ⟨agenda, ha | ⟨w, rest, i, -, -, ha, hx⟩ | ⟨m, hm, hx⟩⟩ := step_cases h
  · exact engineAction_writesOnly (s := { s with agenda := agenda }) ha
  · exact (exec_accepted (s := { s with agenda := agenda, port := rest }) ha hx).writesOnly
  · exact .nothing (by rw [(stepMove_cases hm hx).1])

/-- Settles O8: a step's CR writes are those of positions, BEGIN and END, and no control word sets WC, IE or the
reserved bit. -/
theorem onlyTheSevenControlWordsAreWritten : Obligations.OnlyTheSevenControlWordsAreWritten := by
  refine ⟨by rintro p rfl; decide, fun s t hp h => ⟨wRnackWord_eq _, ?_⟩⟩
  obtain ⟨new, ht, hnew⟩ := step_writesOnly h
  refine ⟨new, ht, fun w hw => ⟨hnew hw, ?_⟩⟩
  obtain ⟨hwc, hie⟩ := controlWord_wc_ie hp (hnew hw)
  exact ⟨hwc, hie, controlWord_reserved (hnew hw)⟩

end Sys2Proof.Machine

/-! # Proofs: the lifecycle commands, acceptance and the end of a transaction (40_lifecycle.md)

A step at the engine's turn is `exec` of an accepted command or the engine's next action (`engineStep_of_accepts`,
`engineStep_of_noneAccepted`). What BEGIN and END leave is written out as a state (`begunState`, `endedState`), from
which their effects and their frames are read off. An engine action ends a transaction only by the return of a
primitive, after an action that keeps the command, BUF and the draws (`RunsOnOrFinishes`). -/

namespace Sys2Proof.Machine

/-! ## Acceptance (R110) -/

/-- The agent that moves is given the state with its move taken from the agenda, and nothing else changed. -/
theorem nextMove_frame (s : State) : (nextMove s).2 = { s with agenda := (nextMove s).2.agenda } := by
  unfold nextMove
  split <;> rfl

theorem step_of_engine_turn {s : State} (h : (nextMove s).1 = .engine) : step s = engineStep (nextMove s).2 := by
  rw [step, h]
  rfl

/-- Whether a command is accepted depends on READY alone. -/
theorem accepts_congr {s t : State} (i : Instr) (h : t.ready = s.ready) : accepts i t = accepts i s := by
  cases i <;> simp only [accepts, h]

theorem engineStep_of_accepts {s : State} {w : CommandWord} {rest : List CommandWord} {i : Instr}
    (hport : s.port = w :: rest) (hd : decodeCommand s.params w = .ok i) (ha : accepts i s = true) :
    engineStep s = exec i { s with port := rest } := by
  simp only [engineStep, hport, hd, ha, if_true]

theorem engineStep_of_noneAccepted {s : State} (h : noneAccepted s) : engineStep s = engineAction s := by
  obtain hport | ⟨w, rest, i, hport, hd, ha⟩ := h
  · exact engineStep_port_nil hport
  · simp only [engineStep, hport, hd, ha, Bool.false_eq_true, if_false]

/-- At a position that writes CR the engine's action is `exec` of the control word's instruction, then the move. -/
theorem engineAction_of_controlWord {s : State} {w : Byte} {i : Instr} (hu : positionUsed s.seq s.ph = true)
    (hw : controlWordAt s = some w) (hd : decodeControl s.params (s.seq == .tRdata) w = .ok i) :
    engineAction s = andThen (exec i s) afterControlWord := by
  simp only [engineAction, hu, hw, hd, if_true]

/-- At a position that writes no CR it is the plain step. -/
theorem engineAction_of_plain {s : State} (hu : positionUsed s.seq s.ph = true) (hw : controlWordAt s = none) :
    engineAction s = .next (plainStep s) := by
  simp only [engineAction, hu, hw, if_true]

/-- Settles O10: the turn takes only the move from the agenda, which neither the decoder, nor READY, nor the position
looks at. -/
theorem aStepRunsTheDecodedInstruction : Obligations.AStepRunsTheDecodedInstruction := by
  intro s hturn
  rw [step_of_engine_turn hturn, nextMove_frame s]
  have hnone (h : noneAccepted s) : engineStep { s with agenda := (nextMove s).2.agenda } =
      engineAction { s with agenda := (nextMove s).2.agenda } :=
    engineStep_of_noneAccepted (h.imp_right fun ⟨w, rest, i, hport, hd, ha⟩ =>
      ⟨w, rest, i, hport, hd, (accepts_congr i rfl).trans ha⟩)
  refine ⟨fun w rest i hport hd ha => ?_, hnone, fun w i h hu hw hd => ?_⟩
  · exact engineStep_of_accepts hport hd ((accepts_congr i rfl).trans ha)
  · rw [hnone h]
    exact engineAction_of_controlWord hu hw hd

/-- A command held at a busy engine is not accepted, and has no effect. -/
theorem exec_held {s : State} {i : Instr} (hi : i.isCommand = true) (hr : s.ready = false)
    (ht : ∀ ms, i ≠ .timeoutCmd ms) (hf : ∀ f, i ≠ .setSpeed f) : accepts i s = false ∧ exec i s = .next s := by
  have hn : ¬ s.ready = true := by simp [hr]
  cases i with
  | beginCmd | endCmd | write | read => exact ⟨hr, if_neg hn⟩
  | timeoutCmd ms => exact absurd rfl (ht ms)
  | setSpeed f => exact absurd rfl (hf f)
  | wStart | wSend | wRack | wRnack | wStop | wEnable | wOff => cases hi

/-- An idle engine accepts every command. -/
theorem accepts_of_ready {s : State} {i : Instr} (hi : i.isCommand = true) (hr : s.ready = true) :
    accepts i s = true := by
  cases i with
  | beginCmd | endCmd | write | read => exact hr
  | timeoutCmd | setSpeed => rfl
  | wStart | wSend | wRack | wRnack | wStop | wEnable | wOff => cases hi

/-- Settles O11, by the command. -/
theorem busyCommandsAreHeld : Obligations.BusyCommandsAreHeld := by
  refine fun s i hi => ⟨?_, accepts_of_ready hi, exec_held hi⟩
  rintro (⟨ms, rfl⟩ | ⟨f, rfl⟩) <;> rfl

theorem exec_write_of_ready {s : State} (addr : SlaveAddr) (reg : Byte) (count : Nat) (hr : s.ready = true) :
    exec (.write addr reg count) s = .next (accept false addr reg count s) :=
  if_pos hr

theorem exec_read_of_ready {s : State} (addr : SlaveAddr) (reg : Byte) (count : Nat) (hr : s.ready = true) :
    exec (.read addr reg count) s = .next (accept true addr reg count s) :=
  if_pos hr

/-- Settles O21: acceptance latches the operands and moves the position. -/
theorem writeAndReadAreAccepted : Obligations.WriteAndReadAreAccepted := fun _ addr reg count hr =>
  ⟨exec_write_of_ready addr reg count hr, exec_read_of_ready addr reg count hr⟩

/-- Settles O12: OP tells WRITE from READ, and with the reserved bits 0 the operands are the word's fields. -/
theorem acceptanceLatchesTheCommandsFields : Obligations.AcceptanceLatchesTheCommandsFields := by
  intro s w rest hagenda hport hr hres hop
  rw [step_agenda_nil hagenda]
  obtain hop | hop := hop
  · have hd := decodeCommand_eq_ok.mpr (.write hop hres rfl rfl rfl)
    rw [engineStep_of_accepts hport hd hr, exec_write_of_ready (s := { s with port := rest }) _ _ _ hr, hop]
    rfl
  · have hd := decodeCommand_eq_ok.mpr (.read hop hres rfl rfl rfl)
    rw [engineStep_of_accepts hport hd hr, exec_read_of_ready (s := { s with port := rest }) _ _ _ hr, hop]
    rfl

/-! ## The CR writes of BEGIN and END (R111, R112) -/

theorem busWrite_wEnable {s : State} (h : s.params.wf = true) :
    busWrite (wEnableWord s.params) s =
      { s with bci := { s.bci with on := true, ea := true, sta := false, ie := false }
               trace := .crWrite (wEnableWord s.params) :: s.trace } := by
  obtain ⟨-, -, -, -, hen, -⟩ := word_bits h
  rw [busWrite_frame, busWrite_bci, Bci.crWrite_wEnable _ _ h, busWrite_trace, busWrite_draws, if_pos hen]

theorem busWrite_wOff (s : State) :
    busWrite wOffWord s =
      { s with bci := s.bci.disable s.params s.draws, trace := .crWrite 0x00#8 :: s.trace, draws := s.draws + 1 } := by
  rw [busWrite_frame, busWrite_bci, Bci.crWrite_wOff, busWrite_trace, busWrite_draws, wOffWord, BitVec.getLsbD_zero]
  rfl

/-- The state BEGIN leaves. -/
def begunState (s : State) : State :=
  { s with
    pu := true
    speed := false
    bci := { s.bci.srPsWrite s.params s.params.psBase with
      br := s.params.brSlow, on := true, ea := true, sta := false, ie := false }
    trace := [.done .beginCmd none, .crWrite (wEnableWord s.params), .brWrite s.params.brSlow,
      .srPsWrite s.params.psBase, .puWrite true] ++ s.trace }

/-- The state END leaves. -/
def endedState (s : State) : State :=
  { s with
    bci := s.bci.disable s.params s.draws
    trace := [.done .endCmd none, .crWrite 0x00#8] ++ s.trace
    draws := s.draws + 1 }

theorem exec_begin_of_ready {s : State} (h : s.params.wf = true) (hr : s.ready = true) :
    exec .beginCmd s = .next (begunState s) := by
  have hcr : busWrite (wEnableWord s.params) (beginPresets s) = _ := busWrite_wEnable (s := beginPresets s) h
  calc exec .beginCmd s
      _ = .next (finishLifecycle .beginCmd (busWrite (wEnableWord s.params) (beginPresets s))) := if_pos hr
      _ = .next (begunState s) := by rw [hcr]; rfl

theorem exec_end_of_ready {s : State} (hr : s.ready = true) : exec .endCmd s = .next (endedState s) := by
  calc exec .endCmd s
      _ = .next (finishLifecycle .endCmd (busWrite wOffWord s)) := if_pos hr
      _ = .next (endedState s) := by rw [busWrite_wOff]; rfl

/-! ## BEGIN (R111) -/

/-- A field that is written reads as what was written. -/
theorem writeField_and_same (x y m : Byte) : ((x &&& ~~~m) ||| (y &&& m)) &&& m = y &&& m := by
  apply BitVec.eq_of_getLsbD_eq
  intro i hi
  simp only [BitVec.getLsbD_and, BitVec.getLsbD_or, BitVec.getLsbD_not, hi]
  grind

/-- A field written twice is the field written once. -/
theorem writeField_twice (x y m : Byte) :
    ((((x &&& ~~~m) ||| (y &&& m)) &&& ~~~m) ||| (y &&& m)) = ((x &&& ~~~m) ||| (y &&& m)) := by
  apply BitVec.eq_of_getLsbD_eq
  intro i hi
  simp only [BitVec.getLsbD_and, BitVec.getLsbD_or, BitVec.getLsbD_not, hi]
  grind

/-- BEGIN is idempotent: a second one adds its events and changes nothing else. -/
theorem begunState_begunState (s : State) :
    begunState (begunState s) = { begunState s with trace := (begunState (begunState s)).trace } := by
  simp only [begunState, Bci.srPsWrite, writeField_twice]

/-- The presets of R90 at 16 MHz. -/
theorem presets_at_16MHz {p : Config.Params} (h : p.presetsDerived = true) (hf : p.fCpu = 16000000) :
    p.brSlow = 0x48#8 ∧ p.brFast = 0x0C#8 := by
  simp only [Config.Params.presetsDerived, Bool.and_eq_true, beq_iff_eq, hf] at h
  obtain ⟨⟨-, hslow⟩, hfast⟩ := h
  exact ⟨BitVec.eq_of_toNat_eq hslow, BitVec.eq_of_toNat_eq hfast⟩

/-- Settles O13: BEGIN leaves `begunState`, and a second one finds an idle engine with the same parameters. -/
theorem beginInitialisesThePeripheral : Obligations.BeginInitialisesThePeripheral := by
  intro s hwf hr
  refine ⟨decodeCommand_eq_ok.mpr (.beginCmd rfl rfl), begunState s, exec_begin_of_ready hwf hr, rfl,
    writeField_and_same _ _ _, rfl, rfl, rfl, rfl, rfl, rfl, rfl, rfl, rfl, rfl, s.bci.srPsWrite_status hwf _, rfl, rfl,
    rfl, rfl, fun _ => rfl, rfl, ⟨_, exec_begin_of_ready (s := begunState s) hwf hr, begunState_begunState s⟩,
    fun hd hf => (presets_at_16MHz hd hf).1⟩

/-! ## END (R112) -/

/-- Settles O14: END leaves `endedState`, and a disable writes the status field of SR and not the prescaler. -/
theorem endDisablesThePeripheral : Obligations.EndDisablesThePeripheral := by
  intro s hwf hr
  exact ⟨decodeCommand_eq_ok.mpr (.endCmd rfl rfl), endedState s, exec_end_of_ready hr, rfl, rfl, rfl, rfl, rfl, rfl,
    rfl, rfl, rfl, rfl, rfl, rfl, fun _ => rfl, rfl, s.bci.withStatus_ps hwf _, rfl⟩

/-! ## SETSPEED (R114) -/

/-- Settles O16: the word is format S, and `exec` writes SPEED and BR. -/
theorem setSpeedWritesSpeedAndDividerOnly : Obligations.SetSpeedWritesSpeedAndDividerOnly := by
  rintro s fast br rfl
  have hword : 0x30000000#32 ||| (if fast = true then 1#32 else 0#32) = formatS 0x3#4 fast := by cases fast <;> decide
  refine ⟨?_, rfl, fun hd hf hfast => ?_⟩
  · rw [hword]
    exact decodeCommand_eq_ok.mpr (.setSpeed (opField_formatS _ _) (reservedS_formatS _ _) (fastField_formatS _ _))
  · rw [if_pos hfast]
    exact (presets_at_16MHz hd hf).2

/-! ## The frame of the lifecycle commands -/

/-- What a lifecycle command leaves unchanged from `s` to `t`. -/
structure LifecycleFrame (i : Instr) (s t : State) : Prop where
  frame : t = { s with
    timeout := t.timeout, speed := t.speed, pu := t.pu, bci := t.bci, trace := t.trace, draws := t.draws }
  timeout : (∀ ms, i ≠ .timeoutCmd ms) → t.timeout = s.timeout
  pu : i ≠ .beginCmd → t.pu = s.pu
  speed : i ≠ .beginCmd → (∀ f, i ≠ .setSpeed f) → t.speed = s.speed ∧ t.bci.br = s.bci.br
  ps : i ≠ .beginCmd → t.bci.ps s.params = s.bci.ps s.params
  notEnd : i ≠ .endCmd → t.draws = s.draws ∧
    t.bci = { s.bci with
      ea := t.bci.ea, sta := t.bci.sta, on := t.bci.on, ie := t.bci.ie, sr := t.bci.sr, br := t.bci.br } ∧
    t.bci.status s.params = s.bci.status s.params
  bci : t.bci.dr = s.bci.dr ∧ t.bci.wc = s.bci.wc ∧ t.bci.evtBr = s.bci.evtBr ∧ t.bci.evtPs = s.bci.evtPs

/-- A held command leaves everything. -/
theorem LifecycleFrame.refl (i : Instr) (s : State) : LifecycleFrame i s s :=
  ⟨rfl, fun _ => rfl, fun _ => rfl, fun _ _ => ⟨rfl, rfl⟩, fun _ => rfl, fun _ => ⟨rfl, rfl, rfl⟩, rfl, rfl, rfl, rfl⟩

theorem begunState_frame {s : State} (h : s.params.wf = true) : LifecycleFrame .beginCmd s (begunState s) :=
  ⟨rfl, fun _ => rfl, absurd rfl, absurd rfl, absurd rfl,
    fun _ => ⟨rfl, rfl, s.bci.srPsWrite_status h _⟩, rfl, rfl, rfl, rfl⟩

theorem endedState_frame {s : State} (h : s.params.wf = true) : LifecycleFrame .endCmd s (endedState s) :=
  ⟨rfl, fun _ => rfl, fun _ => rfl, fun _ _ => ⟨rfl, rfl⟩, fun _ => s.bci.withStatus_ps h _, absurd rfl,
    rfl, rfl, rfl, rfl⟩

theorem exec_lifecycleFrame {s t : State} {i : Instr} (h : s.params.wf = true)
    (hi : i = .beginCmd ∨ i = .endCmd ∨ (∃ ms, i = .timeoutCmd ms) ∨ ∃ f, i = .setSpeed f) (hx : exec i s = .next t) :
    LifecycleFrame i s t := by
  have held (hh : accepts i s = false ∧ exec i s = .next s) : LifecycleFrame i s t := by
    cases hh.2.symm.trans hx
    exact .refl i s
  obtain rfl | rfl | ⟨ms, rfl⟩ | ⟨f, rfl⟩ := hi
  · cases hr : s.ready with
    | true => cases (exec_begin_of_ready h hr).symm.trans hx; exact begunState_frame h
    | false => exact held (exec_held rfl hr (fun _ => nofun) fun _ => nofun)
  · cases hr : s.ready with
    | true => cases (exec_end_of_ready hr).symm.trans hx; exact endedState_frame h
    | false => exact held (exec_held rfl hr (fun _ => nofun) fun _ => nofun)
  · cases hx
    exact ⟨rfl, fun hne => absurd rfl (hne ms), fun _ => rfl, fun _ _ => ⟨rfl, rfl⟩, fun _ => rfl,
      fun _ => ⟨rfl, rfl, rfl⟩, rfl, rfl, rfl, rfl⟩
  · cases hx
    exact ⟨rfl, fun _ => rfl, fun _ => rfl, fun _ hne => absurd rfl (hne f), fun _ => rfl,
      fun _ => ⟨rfl, rfl, rfl⟩, rfl, rfl, rfl, rfl⟩

/-- Settles O17: BEGIN and END of a busy engine are held, and each accepted command has its own part of the state. -/
theorem lifecycleCommandsFrame : Obligations.LifecycleCommandsFrame := fun _ _ _ hwf hi hx =>
  have h := exec_lifecycleFrame hwf hi hx
  ⟨h.frame, fun _ => by rw [h.frame], h.timeout, h.pu, h.speed, h.ps, h.notEnd, h.bci⟩

/-! ## TIMEOUT during a wait (R113, 42_phases.md R161, R162) -/

/-- A poll that does not see its event goes on to the clock test, unless TIMEOUT is 0. -/
theorem engineAction_poll {s : State} {kind : WaitKind} {clk : Phase} (h : WaitsAt s kind clk)
    (hc : waitComplete kind s = false) :
    engineAction s = .next (if s.timeout = 0 then pollAction s else (pollAction s).atPhase clk) := by
  cases h with
  | event hp hu hs =>
    rw [engineAction_of_plain (hp ▸ hu) (by simp [controlWordAt, hp])]
    simp only [plainStep, hp, stepPoll, hs, hc, if_false, Bool.false_eq_true]
  | stop hp hs =>
    rw [engineAction_of_plain (by rw [hp, hs]; rfl) (by simp [controlWordAt, hp])]
    simp only [plainStep, hp, stepPoll, hs, hc, if_true, if_false, Bool.false_eq_true]
  | nested hp hu =>
    rw [engineAction_of_plain (hp ▸ hu) (by simp [controlWordAt, hp])]
    simp only [plainStep, hp, stepNestedPoll, hc, if_false, Bool.false_eq_true]

/-- The clock test of a wait stands at a used position, of a primitive or of the nested STOP. -/
theorem WaitsAt.clockPosition {s : State} {kind : WaitKind} {clk : Phase} (h : WaitsAt s kind clk) :
    positionUsed s.seq clk = true ∧ (clk = .clock ∨ clk = .nstop .clock) := by
  have edge := positionUsed_of_phaseEdge s.seq
  cases h with
  | event hp hu hs => exact ⟨edge (.poll, .clock) (by decide) hu, .inl rfl⟩
  | stop hp hs => exact ⟨by rw [hs]; rfl, .inl rfl⟩
  | nested hp hu => exact ⟨edge (.nstop .poll, .nstop .clock) (by decide) hu, .inr rfl⟩

/-- A clock test that finds the wait timed out enters LOCKUP. -/
theorem engineAction_clockExpired {s : State} (hu : positionUsed s.seq s.ph = true)
    (hp : s.ph = .clock ∨ s.ph = .nstop .clock) (he : clockExpired s = true) :
    ∃ t, engineAction s = .next t ∧ (t.ph = .lock0 .timedOut ∨ t.ph = .nstop .lock0) := by
  obtain hp | hp := hp
  · refine ⟨_, engineAction_of_plain hu (by simp [controlWordAt, hp]), .inl ?_⟩
    simp only [plainStep, hp, stepClock, he, if_true, enterRecovery, State.atPhase_ph]
  · refine ⟨_, engineAction_of_plain hu (by simp [controlWordAt, hp]), .inr ?_⟩
    simp only [plainStep, hp, stepNestedClock, he, if_true, State.atPhase_ph]

theorem elapsed_of_lt {p : Config.Params} {now t0 : Nat} (h : t0 < 2 ^ p.clockW) :
    elapsed p now t0 = (now + 2 ^ p.clockW - t0) % 2 ^ p.clockW := by
  rw [elapsed, Nat.mod_eq_of_lt h, Nat.add_sub_assoc h.le]

theorem timedOut_of_lt {p : Config.Params} {draw now t0 t : Nat} (h : t < elapsed p now t0) :
    timedOut p draw now t0 t = true :=
  if_pos h

/-- The word of TIMEOUT ms is format T. -/
theorem decodeCommand_timeout {p : Config.Params} (hp : p.wf = true) {ms : Nat} (h : ms < 2 ^ p.timeoutW) :
    decodeCommand p (0x20000000#32 ||| BitVec.ofNat 32 ms) = .ok (.timeoutCmd ms) := by
  have hword : encode p (.timeoutCmd ms) = .command (0x20000000#32 ||| BitVec.ofNat 32 ms) := by
    simp [encode, formatT, placed]
  exact decodeCommand_eq_ok.mpr (holds_of_encode hp (decide_eq_true h) hword)

/-- Settles O15: the poll samples the TIMEOUT just written, and the clock test of that iteration compares with it. -/
theorem timeoutCommandWritesTimeoutOnly : Obligations.TimeoutCommandWritesTimeoutOnly := by
  intro s ms hwf hms
  refine ⟨decodeCommand_timeout hwf hms, rfl, ?_⟩
  rintro t u kind clk ht hwait hc hu
  cases ht
  rw [engineAction_poll hwait hc] at hu
  split_ifs at hu with h0 <;> cases hu
  · exact ⟨rfl, rfl, fun _ => rfl, absurd h0, absurd h0⟩
  · refine ⟨rfl, rfl, fun h => absurd h h0, fun _ => rfl, fun _ ht0 hlt => ?_⟩
    rw [← elapsed_of_lt ht0] at hlt
    obtain ⟨hused, hclk⟩ := hwait.clockPosition
    exact engineAction_clockExpired hused hclk (timedOut_of_lt hlt)

/-! ## The end of a transaction (R110, 41_transactions.md R134, R135) -/

/-- A draw of the first `n` bytes reads as the draw. -/
theorem bufGet_bufDraw_drawn {size : Nat} {m : List Host.Cell} (hm : bufWf size m = true) (d : Nat) {n a : Nat}
    (hn : n ≤ size) (ha : a < n) : bufGet (bufDraw d n m) a = Config.freeBuf d a := by
  induction n with
  | zero => cases ha
  | succ n ih =>
    rw [bufDraw]
    obtain rfl | hne := eq_or_ne a n
    · exact bufGet_bufSet_same (bufDraw_wf hm d (by omega)) _ _
    · rw [bufGet_bufSet_other _ _ hne]
      exact ih (by omega) (by omega)

/-- The bytes a finish draws are those the command may change, if it failed. -/
theorem bytesDrawn_eq (s : State) (v : Byte) :
    bytesDrawn s v = if v = 0#8 then 0 else receivedBytes (commandOf s) := by
  rw [bytesDrawn, receivedBytes_commandOf]
  by_cases hv : v = 0#8 <;> simp [hv]

/-- What the action before a return keeps: the transaction step, the command, BUF, the draws and the parameters. -/
structure KeepsTransaction (s u : State) : Prop where
  seq : u.seq = s.seq := by rfl
  command : commandOf u = commandOf s := by rfl
  buf : u.buf = s.buf := by rfl
  draws : u.draws = s.draws := by rfl
  params : u.params = s.params := by rfl

theorem KeepsTransaction.trans {s u v : State} (h : KeepsTransaction s u) (h' : KeepsTransaction u v) :
    KeepsTransaction s v :=
  ⟨h'.seq.trans h.seq, h'.command.trans h.command, h'.buf.trans h.buf, h'.draws.trans h.draws,
    h'.params.trans h.params⟩

/-- The step from `s` to `t` leaves the transaction running, or ends it: after an action that keeps it, the call in
progress is its last. -/
def RunsOnOrFinishes (s t : State) : Prop := t.seq ≠ .idle ∨ ∃ u, KeepsTransaction s u ∧ t = endTransaction u

theorem continueAfter_runsOnOrFinishes {s : State} (hs : s.seq ≠ .idle) :
    RunsOnOrFinishes s (continueAfter s) := by
  unfold continueAfter
  split
  case h_3 => unfold payloadLoop; split_ifs <;> exact .inl nofun
  case h_4 => unfold payloadLoop; split_ifs <;> exact .inl nofun
  case h_7 => exact .inr ⟨s, {}, rfl⟩
  case h_8 => exact .inr ⟨s, {}, rfl⟩
  case h_9 => exact .inl hs
  case h_10 => exact .inl hs
  all_goals exact .inl nofun

/-- The return of a primitive, after an action that keeps the transaction. -/
theorem KeepsTransaction.returnWith {s u : State} (h : KeepsTransaction s u) (hs : s.seq ≠ .idle) (v : Byte) :
    RunsOnOrFinishes s (returnWith v u) := by
  have hv : KeepsTransaction s { u with rv := v } := { h with }
  have hu : u.seq ≠ .idle := h.seq ▸ hs
  obtain hc | hc | ⟨-, hc⟩ := returnWith_cases v u <;> rw [hc]
  · exact (continueAfter_runsOnOrFinishes (s := { u with rv := v }) hu).imp_right fun ⟨x, hx, ht⟩ =>
      ⟨x, hv.trans hx, ht⟩
  · exact .inr ⟨_, hv, rfl⟩
  · exact .inl hu

/-! Only a poll of STO, the evaluation of a status and the second write of a LOCKUP return from a primitive. -/

section Positions

variable {s : State} (hs : s.seq ≠ .idle)
include hs

theorem stepEntry_runsOn (hd : s.seq ≠ .tDone) : RunsOnOrFinishes s (stepEntry s) := by
  unfold stepEntry
  split
  case h_3 hdone => exact absurd hdone hd
  all_goals exact .inl hs

theorem stepPoll_runsOnOrFinishes : RunsOnOrFinishes s (stepPoll s) := by
  unfold stepPoll
  split_ifs
  · exact KeepsTransaction.returnWith (u := pollAction s) {} hs _
  all_goals exact .inl hs

theorem stepNestedPoll_runsOnOrFinishes : RunsOnOrFinishes s (stepNestedPoll s) := by
  unfold stepNestedPoll
  split_ifs
  · exact KeepsTransaction.returnWith (u := pollAction s) {} hs _
  all_goals exact .inl hs

theorem stepEval_runsOnOrFinishes : RunsOnOrFinishes s (stepEval s) := by
  have hact : KeepsTransaction s (latchStatus s) := {}
  unfold stepEval
  split
  · exact .inl hs
  · dsimp only
    split
    · exact hact.returnWith hs _
    · exact hact.returnWith hs _
    · exact .inl hs
    · exact .inl hs

theorem plainStep_runsOnOrFinishes (hd : s.seq ≠ .tDone) : RunsOnOrFinishes s (plainStep s) := by
  unfold plainStep
  split
  case h_1 => exact stepEntry_runsOn hs hd
  case h_3 => rw [stepDr, drWrite_frame]; exact .inl hs
  case h_5 => exact stepPoll_runsOnOrFinishes hs
  case h_6 => unfold stepClock; split_ifs <;> exact .inl hs
  case h_7 => exact stepEval_runsOnOrFinishes hs
  case h_9 => unfold stepBufw afterStore; split_ifs <;> exact .inl nofun
  case h_11 => exact stepNestedPoll_runsOnOrFinishes hs
  case h_12 => unfold stepNestedClock; split_ifs <;> exact .inl hs
  all_goals exact .inl hs

/-- A LOCKUP returns after W_ENABLE, which makes no draw. -/
theorem afterControlWord_runsOnOrFinishes (hwf : s.params.wf = true) {w : Byte} (hw : controlWordAt s = some w) :
    RunsOnOrFinishes s (afterControlWord (busWrite w s)) := by
  have hact : KeepsTransaction s (busWrite (wEnableWord s.params) s) := by rw [busWrite_wEnable hwf]; exact {}
  have hseq : (busWrite w s).seq ≠ .idle := by rw [busWrite_frame]; exact hs
  unfold controlWordAt at hw
  unfold afterControlWord
  rw [busWrite_ph]
  cases hp : s.ph <;> rw [hp] at hw
  case issue | lock0 => exact .inl hseq
  case lock1 => cases hw; exact hact.returnWith hs _
  case nstop sub =>
    cases sub
    case issue | lock0 => exact .inl hseq
    case lock1 => cases hw; exact hact.returnWith hs _
    all_goals cases hw
  all_goals cases hw

end Positions

/-- Everything an engine action can do to a transaction: it runs on, or ends with the call in progress. -/
theorem engineAction_runsOnOrFinishes {s t : State} (hi : Inv s) (hs : s.seq ≠ .idle) (h : engineAction s = .next t) :
    RunsOnOrFinishes s t := by
  obtain ⟨-, ⟨-, rfl⟩ | ⟨w, i, u, hw, hd, hu, rfl⟩⟩ := engineAction_cases h
  · exact plainStep_runsOnOrFinishes hs hi.notDone
  · rw [exec_of_decodeControl hd] at hu
    obtain ⟨-, rfl⟩ := crWrite_next hu
    exact afterControlWord_runsOnOrFinishes hs hi.paramsWf hw

/-- Settles O53: the end of the last call maps RV with its step's constant, and draws the bytes of a failed READ. -/
theorem finishReportsTheResult : Obligations.FinishReportsTheResult := by
  intro s t hi hs h hidle
  obtain ⟨u, hu, rfl⟩ := (engineAction_runsOnOrFinishes hi hs h).resolve_left (absurd hidle)
  have hres : (endTransaction u).res = mapResult u.rv (phaseConstant s.params s.seq) := by
    rw [← hu.seq, ← hu.params]
    rfl
  have hbuf : (endTransaction u).buf = bufDraw s.draws (if (endTransaction u).res = 0#8 then 0 else
      if s.opr then recvCount s.cnt else 0) s.buf := by
    rw [← receivedBytes_commandOf, ← hu.command, ← bytesDrawn_eq, ← hu.draws, ← hu.buf]
    rfl
  refine ⟨hres, rfl, rfl, ?_, fun hkept a => ?_, fun hopr hfail => ?_⟩
  · rw [← hu.command]
    rfl
  · rw [hbuf]
    obtain hopr | hzero := hkept
    · simp [hopr, bufDraw]
    · rw [if_pos hzero]
      rfl
  · rw [if_neg hfail, if_pos hopr] at hbuf
    have hsize := (recvCount_bounds hi.paramsWf hi.countRange.1).2
    rw [hbuf]
    exact ⟨fun a ha => bufGet_bufDraw_drawn hi.bufCanonical _ hsize ha, fun a ha => bufGet_bufDraw_other _ _ ha⟩

end Sys2Proof.Machine

/-! # Proofs: the steps of a transaction (41_transactions.md)

A position that writes CR makes its word's CR write and moves on (`engineAction_write`); with nothing presented a step is
the engine's action (`runSteps_action`), and a LOCKUP is two such steps, the same for every cause (`runSteps_lockup`).
A value a receive has to reject, E_TIMEOUT or a status it did not request, ends READ as a nonzero value ends any other
step. -/

namespace Sys2Proof.Machine

/-! ## The engine's action at a position -/

/-- Every word a position writes is one of the seven (30_encoding.md R85). -/
theorem controlWordAt_mem {s : State} {w : Byte} (h : controlWordAt s = some w) : w ∈ controlWords s.params := by
  have issue (prim : Primitive) : issueWord s.params prim ∈ controlWords s.params := by
    cases prim with
    | recvByte ack => cases ack <;> simp [issueWord, controlWords]
    | start | sendAddr | sendByte | stop => simp [issueWord, controlWords]
  unfold controlWordAt at h
  split at h
  case h_1 =>
    obtain ⟨prim, -, rfl⟩ := Option.map_eq_some_iff.mp h
    exact issue prim
  all_goals cases h
  all_goals simp [controlWords]

/-- At a position that writes CR the engine makes that write, and moves on. -/
theorem engineAction_write {s : State} {w : Byte} (hu : positionUsed s.seq s.ph = true) (hw : controlWordAt s = some w) :
    engineAction s = .next (afterControlWord (busWrite w s)) := by
  have hmem := controlWordAt_mem hw
  obtain ⟨i, hi⟩ := decodeControl_of_mem (s.seq == .tRdata) hmem
  rw [engineAction_of_controlWord hu hw hi, exec_of_decodeControl hi, crWrite, if_pos (List.contains_iff_mem.mpr hmem)]
  rfl

/-- Everything an engine action can do: at a used position, the plain step if the position writes no CR, and otherwise
the write of its word and the move after it. -/
theorem engineAction_eq {s t : State} (h : engineAction s = .next t) :
    positionUsed s.seq s.ph = true ∧
      t = match controlWordAt s with
        | none => plainStep s
        | some w => afterControlWord (busWrite w s) := by
  obtain ⟨hu, ⟨hw, rfl⟩ | ⟨w, -, -, hw, -, -, -⟩⟩ := engineAction_cases h
  · exact ⟨hu, by rw [hw]⟩
  · rw [engineAction_write hu hw] at h
    cases h
    exact ⟨hu, by rw [hw]⟩

/-- The position after the poll of an event reads the status: the engine's action there. -/
theorem engineAction_eval {s : State} (hs : s.seq = .tRdata) (hp : s.ph = .eval) :
    engineAction s = .next (stepEval s) := by
  rw [engineAction_of_plain (by rw [hs, hp]; rfl) (by simp [controlWordAt, hp])]
  simp only [plainStep, hp]

/-! ## Runs of the engine alone -/

/-- With no move to come and no command presented a step is the engine's action. -/
theorem runSteps_action {n : Nat} {s t : State} (h : engineAction s = .next t) (ha : s.agenda = []) (hp : s.port = []) :
    runSteps (n + 1) s = runSteps n t := by
  rw [runSteps, step_agenda_nil ha, engineStep_port_nil hp, h]

/-- The state after the first write of a LOCKUP (43_recovery.md R200). -/
def lockedOff (cause : Cause) (s : State) : State :=
  { s with
    ph := .lock1 cause
    bci := s.bci.disable s.params s.draws
    trace := .crWrite 0x00#8 :: s.trace
    draws := s.draws + 1 }

/-- The state after its second write, before the caller returns. -/
def reenabled (s : State) : State :=
  { s with
    bci := { s.bci with on := true, ea := true, sta := false, ie := false }
    trace := .crWrite (wEnableWord s.params) :: s.trace }

theorem engineAction_lock0 {s : State} {cause : Cause} (hp : s.ph = .lock0 cause)
    (hu : positionUsed s.seq s.ph = true) : engineAction s = .next (lockedOff cause s) := by
  rw [engineAction_write (w := wOffWord) hu (by simp [controlWordAt, hp])]
  simp only [afterControlWord, hp, busWrite_wOff]
  rfl

theorem engineAction_lock1 {s : State} {cause : Cause} (hwf : s.params.wf = true) (hp : s.ph = .lock1 cause)
    (hu : positionUsed s.seq s.ph = true) :
    engineAction s = .next (returnWith (heldOutcome cause s) (reenabled s)) := by
  have hafter : afterControlWord (reenabled s) = returnWith (heldOutcome cause (reenabled s)) (reenabled s) := by
    simp only [afterControlWord, show (reenabled s).ph = .lock1 cause from hp]
  rw [engineAction_write (w := wEnableWord s.params) hu (by simp [controlWordAt, hp]), busWrite_wEnable hwf]
  exact congrArg _ (hafter.trans (by cases cause <;> rfl))

/-! ## The end of a transaction by a nonzero value (R130, R132, R134) -/

/-- No masked status is E_TIMEOUT (00_scope.md R7). -/
theorem masked_ne_eTimeout {p : Config.Params} (hwf : p.wf = true) (v : Byte) : v &&& p.srMask ≠ Config.eTimeout := by
  intro hv
  simp only [Config.Params.wf, Config.Params.codesOk, Bool.and_eq_true, beq_iff_eq] at hwf
  obtain ⟨⟨⟨⟨⟨-, hlow⟩, -⟩, -⟩, -⟩, -⟩ := hwf
  have hbit := congrArg (fun b : Byte => b.getLsbD 0) hv
  have hmask := congrArg (fun b : Byte => b.getLsbD 0) hlow
  simp only [BitVec.getLsbD_and] at hbit hmask
  simp_all [Config.eTimeout]

/-- The status of a lost arbitration is not one a receive requests (R7). -/
theorem stArbLost_ne_requestedStatus {p : Config.Params} (hwf : p.wf = true) (ack : Bool) :
    p.stArbLost ≠ requestedStatus p ack := by
  simp only [Config.Params.wf, Config.Params.codesOk, Bool.and_eq_true, decide_eq_true_eq] at hwf
  obtain ⟨⟨⟨⟨⟨⟨hd, -⟩, -⟩, -⟩, -⟩, -⟩, -⟩ := hwf
  simp only [Config.Params.statusCodes, List.nodup_cons, List.mem_cons, not_or] at hd
  cases ack <;> simp [requestedStatus, hd]

/-- A value that ends the transaction when the primitive in progress returns it: any nonzero value, and in a receive any
but the status it requested. -/
def Rejected (s : State) (v : Byte) : Prop :=
  if s.seq = .tRdata then v = Config.eTimeout ∨ v ≠ requestedStatus s.params (wantsAck s) else v ≠ 0#8

theorem returnWith_rejected {s : State} {v : Byte} (h : Rejected s v) :
    returnWith v s = endTransaction { s with rv := v } := by
  unfold Rejected at h
  split_ifs at h with hs
  · rw [returnWith_receive v hs, afterReceive]
    obtain rfl | hv := h
    · exact if_pos rfl
    · exact (congrArg _ (if_neg hv)).trans (ite_self _)
  · rw [returnWith_other v hs, if_neg h]

theorem rejected_of_unrequested {s : State} {v : Byte} (hs : s.seq = .tRdata)
    (hv : v ≠ requestedStatus s.params (wantsAck s)) : Rejected s v := by
  rw [Rejected, if_pos hs]
  exact .inr hv

theorem rejected_of_ne_zero {s : State} {v : Byte} (hs : s.seq ≠ .tRdata) (hv : v ≠ 0#8) : Rejected s v := by
  rwa [Rejected, if_neg hs]

/-- Every step ends on E_TIMEOUT. -/
theorem rejected_eTimeout (s : State) : Rejected s Config.eTimeout := by
  unfold Rejected
  split_ifs
  · exact .inl rfl
  · decide

/-- A receive goes on exactly with the status it requested. -/
theorem returnWith_requested {s : State} (hwf : s.params.wf = true) (hs : s.seq = .tRdata) {v : Byte}
    (hm : v &&& s.params.srMask = v) (hv : v = requestedStatus s.params (wantsAck s)) :
    returnWith v s = { s with rv := v, ph := .rdr } := by
  rw [returnWith_receive v hs]
  exact (if_neg (hm ▸ masked_ne_eTimeout hwf v)).trans (if_pos hv)

theorem mapResult_masked {p : Config.Params} (hwf : p.wf = true) (v c : Byte) :
    mapResult (v &&& p.srMask) c = v &&& p.srMask :=
  (mapResult_eq _ c).2 (masked_ne_eTimeout hwf v)

/-- The end of a transaction whose primitive returns after a LOCKUP entered at `s`. -/
def endedByLockup (cause : Cause) (s : State) : State :=
  endTransaction { reenabled (lockedOff cause s) with rv := heldOutcome cause s }

/-- A LOCKUP is two steps; a held outcome that is rejected then ends the transaction (60_exceptions.md R247, R248). -/
theorem runSteps_lockup {s : State} {cause : Cause} (hwf : s.params.wf = true)
    (hu : positionUsed s.seq (.lock0 cause) = true) (hr : Rejected s (heldOutcome cause s)) (ha : s.agenda = [])
    (hport : s.port = []) : runSteps 2 (enterRecovery cause s) = .next (endedByLockup cause s) := by
  have hu1 : positionUsed s.seq (.lock1 cause) = true :=
    positionUsed_of_phaseEdge s.seq (.lock0 cause, .lock1 cause) (by cases cause <;> decide) hu
  have hheld : heldOutcome cause (lockedOff cause (enterRecovery cause s)) = heldOutcome cause s := by
    cases cause <;> rfl
  rw [runSteps_action (engineAction_lock0 (s := enterRecovery cause s) rfl hu) ha hport,
    runSteps_action (engineAction_lock1 (s := lockedOff cause (enterRecovery cause s)) hwf rfl hu1) ha hport, hheld,
    returnWith_rejected (s := reenabled (lockedOff cause (enterRecovery cause s))) hr]
  rfl

theorem endedByLockup_trace (cause : Cause) (s : State) :
    (endedByLockup cause s).trace = .done (commandOf s) (some (endedByLockup cause s).res) ::
      .crWrite (wEnableWord s.params) :: .crWrite 0x00#8 :: s.trace := rfl

theorem endedByLockup_timedOut_res (s : State) :
    (endedByLockup .timedOut s).res = phaseConstant s.params s.seq :=
  (mapResult_eq _ _).1 rfl

/-! ## A timeout (R134) -/

/-- Settles O40: the clock test of the poll's iteration expires, and after the LOCKUP every step ends on E_TIMEOUT. -/
theorem aTimeoutIsReportedAsItsPhaseConstant : Obligations.ATimeoutIsReportedAsItsPhaseConstant := by
  intro s kind hwf hwait hc ht ht0 hlate hport ha
  have hpoll := engineAction_poll hwait hc
  rw [if_neg ht] at hpoll
  have hu := hwait.clockPosition.1
  rw [← elapsed_of_lt ht0] at hlate
  have hexp : clockExpired ((pollAction s).atPhase .clock) = true := timedOut_of_lt hlate
  have hclock : engineAction ((pollAction s).atPhase .clock) =
      .next (enterRecovery .timedOut (clockAction ((pollAction s).atPhase .clock))) := by
    rw [engineAction_of_plain hu rfl]
    simp only [plainStep, State.atPhase_ph, stepClock, hexp, if_true]
  have hlock := positionUsed_of_phaseEdge s.seq (.clock, .lock0 .timedOut) (by decide) hu
  rw [runSteps_action hpoll ha hport, runSteps_action hclock ha hport,
    runSteps_lockup (s := clockAction ((pollAction s).atPhase .clock)) hwf hlock (rejected_eTimeout _) ha hport]
  refine ⟨_, rfl, rfl, endedByLockup_trace _ _, ?_⟩
  rw [endedByLockup_timedOut_res]
  simp +contextual [clockAction, pollAction, phaseConstant, or_imp, Config.eTimeout]

/-! ## The bytes sent (30_encoding.md R83, R131) -/

theorem slaW_eq (a : SlaveAddr) : slaW a = a.setWidth 8 <<< 1 := by revert a; decide

theorem slaR_eq (a : SlaveAddr) : slaR a = a.setWidth 8 <<< 1 ||| 1#8 := by revert a; decide

theorem engineAction_buf {s : State} (hs : s.seq = .tWdata) (hp : s.ph = .buf) :
    engineAction s = .next (stepBuf s) := by
  rw [engineAction_of_plain (by rw [hs, hp]; rfl) (by simp [controlWordAt, hp])]
  simp only [plainStep, hp]

/-- Every step that sends a byte has P_DR. -/
theorem engineAction_dr {s : State} (hp : s.ph = .dr)
    (hs : s.seq = .tAddrW ∨ s.seq = .tAddrR ∨ s.seq = .tReg ∨ s.seq = .tWdata) :
    engineAction s = .next (stepDr s) := by
  have hu : positionUsed s.seq s.ph = true := by rw [hp]; obtain hs | hs | hs | hs := hs <;> rw [hs] <;> rfl
  rw [engineAction_of_plain hu (by simp [controlWordAt, hp])]
  simp only [plainStep, hp]

/-- Settles O48: the byte of each step, and the DR write with INT = 1 and with INT = 0. -/
theorem theByteToSendGoesToTheDataRegister : Obligations.TheByteToSendGoesToTheDataRegister := by
  refine ⟨fun s hs hp => engineAction_buf hs hp, fun s b hp hb => ?_⟩
  obtain ⟨hs, hbyte⟩ : (s.seq = .tAddrW ∨ s.seq = .tAddrR ∨ s.seq = .tReg ∨ s.seq = .tWdata) ∧ byteToSend s = b := by
    obtain ⟨hs, rfl⟩ | ⟨hs, rfl⟩ | ⟨hs, rfl⟩ | ⟨hs, rfl⟩ := hb <;> simp [byteToSend, hs, slaW_eq, slaR_eq]
  rw [engineAction_dr hp hs, stepDr, hbyte, drWrite_frame]
  refine ⟨fun hint => ?_, fun hint => ⟨(s.bci.drWrite b s.draws).dr, ?_, ?_⟩⟩
  · simp only [Bci.drWrite, hint, if_true]
    rfl
  · simp only [Bci.drWrite, hint, Bool.false_eq_true, if_false]
    split_ifs
    · exact .inl rfl
    · exact .inr rfl
  · simp only [Bci.drWrite, hint, Bool.false_eq_true, if_false]
    rfl

/-! ## What follows a primitive (R130 to R132) -/

/-- Outside a receive 0 lets the sequencer go on. -/
theorem returnWith_zero {s : State} (hs : s.seq ≠ .tRdata) : returnWith 0#8 s = continueAfter { s with rv := 0#8 } := by
  rw [returnWith_other _ hs, if_pos rfl]

theorem payloadLoop_eq (s : State) :
    payloadLoop s = { s with
      seq := if s.idx < s.cnt then .tWdata else .tStop, ph := if s.idx < s.cnt then .buf else .t0 } := by
  unfold payloadLoop
  split_ifs <;> rfl

/-- Settles O49: one equation of `continueAfter` a step, and the end on a rejected value. -/
theorem theSequencerContinuesOnZeroAndAbortsOtherwise : Obligations.TheSequencerContinuesOnZeroAndAbortsOtherwise := by
  intro s q ph
  refine ⟨?_, fun hs => ?_, fun hs ho => ?_, fun hs => ?_, fun hs => ?_, fun v hv hs => ?_⟩
  · rintro (⟨hs, rfl, rfl⟩ | ⟨hs, rfl, rfl⟩ | ⟨hs, ho, rfl, rfl⟩ | ⟨hs, rfl, rfl⟩) <;>
      rw [returnWith_zero (by simp [hs])] <;> simp only [continueAfter, hs]
    case inr.inr.inl => rw [if_pos ho]; rfl
    all_goals rfl
  · rw [returnWith_zero (by simp [hs])]
    simp only [continueAfter, hs]
    rfl
  · rw [returnWith_zero (by simp [hs])]
    simp only [continueAfter, hs, ho, Bool.false_eq_true, if_false, payloadLoop_eq]
  · rw [returnWith_zero (by simp [hs])]
    simp only [continueAfter, hs, payloadLoop_eq]
  · rw [returnWith_zero (by simp [hs])]
    simp only [continueAfter, hs]
    exact ⟨rfl, rfl, rfl⟩
  · rw [returnWith_rejected (rejected_of_ne_zero hs hv)]
    exact ⟨rfl, rfl, rfl, rfl⟩

/-! ## Receives (R132) -/

/-- The receive requests ACK for every byte but the last. -/
theorem wantsAck_eq (s : State) : wantsAck s = decide (s.idx + 1 < recvCount s.cnt) := by
  simp only [wantsAck, Nat.lt_sub_iff_add_lt]

theorem requestedStatus_eq (s : State) :
    requestedStatus s.params (wantsAck s) =
      if s.idx + 1 < recvCount s.cnt then s.params.stMrDataAck else s.params.stMrDataNack := by
  simp only [requestedStatus, wantsAck_eq, decide_eq_true_eq]

/-- A receive that has not lost arbitration returns its status; one that has enters LOCKUP (43_recovery.md R201). -/
theorem stepEval_receive {s : State} (hs : s.seq = .tRdata) :
    stepEval s = if s.bci.status s.params = s.params.stArbLost then enterRecovery .status (latchStatus s)
      else returnWith (s.bci.status s.params) (latchStatus s) := by
  have hst : (latchStatus s).st = s.bci.status s.params := rfl
  simp only [stepEval, primitiveOf, hs, arbitrate, hst]
  split_ifs <;> rfl

/-- Settles O50: the status a receive returns is masked, so it is accepted exactly if it is the one requested. -/
theorem readAcceptsOnlyTheRequestedStatus : Obligations.ReadAcceptsOnlyTheRequestedStatus := by
  rintro s S want hwf hs hp hS hlost rfl
  obtain rfl : S = s.bci.status s.params := hS
  rw [engineAction_eval hs hp, stepEval_receive hs, if_neg hlost]
  have hreq : requestedStatus s.params (wantsAck s) = _ := requestedStatus_eq s
  by_cases hS : s.bci.status s.params = requestedStatus s.params (wantsAck s)
  · rw [returnWith_requested (s := latchStatus s) (v := s.bci.status s.params) hwf hs (masked_masked _ _) hS]
    exact ⟨_, rfl, rfl, rfl, fun _ => rfl, fun hne => absurd (hS.trans hreq) hne⟩
  · have hr : Rejected (latchStatus s) (s.bci.status s.params) :=
      rejected_of_unrequested (s := latchStatus s) hs hS
    have hres : (endTransaction { latchStatus s with rv := s.bci.status s.params }).res = s.bci.status s.params :=
      mapResult_masked hwf _ _
    rw [returnWith_rejected hr]
    exact ⟨_, rfl, rfl, rfl, fun he => absurd (he.trans hreq.symm) hS, fun _ => ⟨rfl, rfl, hres,
      congrArg (fun v => [.done (commandOf s) (some v), .srRead s.bci.sr] ++ s.trace) hres⟩⟩

/-- Settles O51: a lost arbitration is a row "full" of R201, and no status a receive requests. -/
theorem readReportsLostArbitration : Obligations.ReadReportsLostArbitration := by
  intro s hwf hs hp hlost hport ha
  change s.bci.status s.params = s.params.stArbLost at hlost
  have heval := engineAction_eval hs hp
  rw [stepEval_receive hs, if_pos hlost] at heval
  have hst : (latchStatus s).st = s.params.stArbLost := hlost
  have hr : Rejected (latchStatus s) (heldOutcome .status (latchStatus s)) :=
    rejected_of_unrequested (s := latchStatus s) hs (by
      rw [heldOutcome, hst]
      exact stArbLost_ne_requestedStatus hwf _)
  have hres : (endedByLockup .status (latchStatus s)).res = s.params.stArbLost :=
    (mapResult_masked hwf _ _).trans hlost
  have hlock : positionUsed (latchStatus s).seq (.lock0 .status) = true := by
    rw [show (latchStatus s).seq = _ from hs]
    rfl
  rw [runSteps_action heval ha hport, runSteps_lockup (s := latchStatus s) hwf hlock hr ha hport]
  exact ⟨_, rfl, rfl, hres, rfl, rfl, congrArg (fun v => [.done (commandOf s) (some v), _, _, _] ++ s.trace) hres⟩

theorem engineAction_rdr {s : State} (hs : s.seq = .tRdata) (hp : s.ph = .rdr) :
    engineAction s = .next (stepRdr s) := by
  rw [engineAction_of_plain (by rw [hs, hp]; rfl) (by simp [controlWordAt, hp])]
  simp only [plainStep, hp]

theorem engineAction_bufw {s : State} (hs : s.seq = .tRdata) (hp : s.ph = .bufw) :
    engineAction s = .next (stepBufw s) := by
  rw [engineAction_of_plain (by rw [hs, hp]; rfl) (by simp [controlWordAt, hp])]
  simp only [plainStep, hp]

/-- Only a receive reads DR. -/
theorem positionUsed_rdr {q : Seq} (h : positionUsed q .rdr = true) : q = .tRdata := by
  revert h
  cases q <;> decide

/-- IDX is the index READ stores at, for the last byte too. -/
theorem recvIndex_eq {s : State} (h : s.idx < recvCount s.cnt) : recvIndex s = s.idx := by
  simp only [recvIndex, wantsAck_eq, decide_eq_true_eq]
  split_ifs <;> omega

/-- P_BUFW stores at IDX, and goes to the next byte or, after the last, to the final STOP. -/
theorem stepBufw_eq {s : State} (h : s.idx < recvCount s.cnt) :
    stepBufw s = { s with
      buf := bufSet s.buf s.idx s.rxByte, trace := .bufWrite s.idx s.rxByte :: s.trace
      idx := if s.idx + 1 < recvCount s.cnt then s.idx + 1 else s.idx
      seq := if s.idx + 1 < recvCount s.cnt then .tRdata else .tStop, ph := .t0 } := by
  have hw : wantsAck (bufWrite s.idx s.rxByte s) = decide (s.idx + 1 < recvCount s.cnt) := wantsAck_eq _
  simp only [stepBufw, recvIndex_eq h, afterStore, hw, decide_eq_true_eq]
  split_ifs <;> rfl

/-- Settles O52: P_RDR holds the byte, and P_BUFW stores it at IDX. -/
theorem readStoresTheAcceptedByte : Obligations.ReadStoresTheAcceptedByte := by
  intro s hi hp
  have hs : s.seq = .tRdata := positionUsed_rdr (hp ▸ hi.position)
  have hlt := hi.idxReceive hs
  have hbuf : bufGet (bufSet s.buf s.idx s.bci.dr) s.idx = s.bci.dr := bufGet_bufSet_same hi.bufCanonical _ _
  refine ⟨stepRdr s, stepBufw (stepRdr s), engineAction_rdr hs hp, engineAction_bufw hs rfl, rfl, rfl, ?_⟩
  rw [stepBufw_eq (s := stepRdr s) hlt, recvIndex_eq hlt]
  exact ⟨rfl, rfl, hbuf, fun a ha => bufGet_bufSet_other _ _ ha, rfl, rfl,
    fun hmore => ⟨if_pos hmore, rfl, if_pos hmore⟩, fun hlast => ⟨if_neg hlast, rfl⟩⟩

end Sys2Proof.Machine

/-! # Proofs: the order of a transaction's control words (41_transactions.md R136)

While a transaction is under way, the words it has written are those its position tells (`wordsSoFar`), or it stands
where its primitive is sure to return a value that ends it with a nonzero result (`heldReturn`, `Fails`). An engine
action keeps this or ends the transaction (`OnCourse.engineAction`), and so does every move of every agent in which no
completion draws the status 0. -/

namespace Sys2Proof.Machine

/-! ## Results that are not 0 -/

/-- No phase constant is 0 (00_scope.md R7). -/
theorem phaseConstant_ne_zero {p : Config.Params} (hwf : p.wf = true) (q : Seq) : phaseConstant p q ≠ 0#8 := by
  intro hz
  simp only [Config.Params.wf, Config.Params.codesOk, Bool.and_eq_true, List.all_eq_true] at hwf
  obtain ⟨⟨⟨-, hrange⟩, -⟩, -⟩ := hwf
  have hmem : phaseConstant p q ∈ Config.eTimeout :: p.phaseConstants := List.mem_cons.mpr (phaseConstant_mem p q)
  have hlow := hrange _ hmem
  rw [hz] at hlow
  simp at hlow

/-- A value that ends the transaction with a result other than 0. -/
def Fails (s : State) (v : Byte) : Prop := v ≠ 0#8 ∧ Rejected s v

theorem fails_eTimeout (s : State) : Fails s Config.eTimeout := ⟨by decide, rejected_eTimeout s⟩

theorem Fails.res {s : State} {v : Byte} (h : Fails s v) (hwf : s.params.wf = true) :
    (endTransaction { s with rv := v }).res ≠ 0#8 := by
  change mapResult v (phaseConstant s.params s.seq) ≠ 0#8
  unfold mapResult
  split_ifs
  · exact phaseConstant_ne_zero hwf _
  · exact h.1

/-! ## The words a position tells -/

/-- The control words of a successful WRITE or READ (R136). -/
def phaseOrder (p : Config.Params) : Instr → List Byte
  | .write _ _ count => writeSequence p count
  | .read _ _ count => readSequence p (recvCount count)
  | _ => []

/-- The words of START, SEND_ADDR and SEND_BYTE(REG), which both commands begin with (R131, R132). -/
def openingWords (p : Config.Params) : List Byte := [wStartWord p, wSendWord p, wSendWord p]

/-- The words of READ before its receives (R132). -/
def readOpeningWords (p : Config.Params) : List Byte := openingWords p ++ [wStartWord p, wSendWord p]

/-- The words of the primitives before the one in progress. -/
def wordsBefore (s : State) : List Byte :=
  match s.seq with
  | .idle => []
  | .tStart => []
  | .tAddrW => [wStartWord s.params]
  | .tReg => [wStartWord s.params, wSendWord s.params]
  | .tWdata => openingWords s.params ++ List.replicate s.idx (wSendWord s.params)
  | .tRstart => openingWords s.params
  | .tAddrR => openingWords s.params ++ [wStartWord s.params]
  | .tRdata => readOpeningWords s.params ++ List.replicate s.idx (wRackWord s.params)
  | .tStop =>
    if s.opr then
      readOpeningWords s.params ++ List.replicate (recvCount s.cnt - 1) (wRackWord s.params) ++ [wRnackWord s.params]
    else openingWords s.params ++ List.replicate s.cnt (wSendWord s.params)
  | .tDone => []

/-- The word of the primitive in progress. -/
def primitiveWord (s : State) : List Byte := ((primitiveOf s).map (issueWord s.params)).toList

/-- The phases of a primitive after its issue. -/
def issued : Phase → Bool
  | .poll => true
  | .clock => true
  | .eval => true
  | .rdr => true
  | .bufw => true
  | _ => false

/-- The words a transaction that has not failed has written when it stands at `s`. -/
def wordsSoFar (s : State) : List Byte := wordsBefore s ++ if issued s.ph then primitiveWord s else []

/-- What the primitive in progress is sure to return, in a nested STOP or a LOCKUP (42_phases.md R170, 43_recovery.md
R200). -/
def heldReturn (s : State) : Option Byte :=
  match s.ph with
  | .nstop _ => some s.st
  | .lock0 cause => some (heldOutcome cause s)
  | .lock1 cause => some (heldOutcome cause s)
  | _ => none

/-- What the BCI shows of the event issued, by the phase: a completion that is visible has left a status other than 0. -/
def statusSeen (p : Config.Params) (b : Bci) : Phase → Prop
  | .poll => b.int = true → b.status p ≠ 0#8
  | .clock => b.int = true → b.status p ≠ 0#8
  | .eval => b.status p ≠ 0#8
  | _ => True

/-- A transaction with parameters `p` that runs command `c`. -/
structure Underway (p : Config.Params) (c : Instr) (s : State) : Prop where
  params : s.params = p
  command : commandOf s = c
  busy : s.seq ≠ .idle
  ready : stepReady s s.seq

/-- It has written `ws`, as its position tells, or is sure to fail. -/
structure OnCourse (p : Config.Params) (c : Instr) (ws : List Byte) (s : State) : Prop extends Underway p c s where
  status : statusSeen p s.bci s.ph
  progress : match heldReturn s with
    | some v => Fails s v
    | none => ws = wordsSoFar s

theorem Underway.notDone {p : Config.Params} {c : Instr} {s : State} (h : Underway p c s) : s.seq ≠ .tDone := by
  intro hs
  have hready := h.ready
  rw [hs] at hready
  exact hready

section Course

variable {p : Config.Params} {c : Instr} {ws : List Byte} {s u t : State}

/-- At a phase that holds no return the words are those of the position. -/
theorem OnCourse.words (h : OnCourse p c ws s) {a : Phase} (hp : s.ph = a)
    (ha : heldReturn (s.atPhase a) = none := by rfl) :
    ws = wordsBefore s ++ if issued a then primitiveWord s else [] := by
  subst hp
  have hprogress := h.progress
  rw [show heldReturn s = none from ha] at hprogress
  exact hprogress

theorem OnCourse.fails (h : OnCourse p c ws s) {v : Byte} (hv : heldReturn s = some v) : Fails s v := by
  have hprogress := h.progress
  rwa [hv] at hprogress

/-- On to another phase of the primitive in progress. -/
theorem Underway.atPhase (h : Underway p c u) {b : Phase} (hs : statusSeen p u.bci b)
    (hw : ws = wordsBefore u ++ if issued b then primitiveWord u else [])
    (hb : heldReturn (u.atPhase b) = none := by rfl) : OnCourse p c ws (u.atPhase b) :=
  { h with
    status := hs
    progress := by rw [hb]; exact hw }

theorem Underway.onCourse (h : Underway p c u) {b : Phase} (hp : u.ph = b) (hs : statusSeen p u.bci b)
    (hw : ws = wordsBefore u ++ if issued b then primitiveWord u else [])
    (hb : heldReturn (u.atPhase b) = none := by rfl) : OnCourse p c ws u := by
  subst hp
  exact h.atPhase hs hw hb

/-- On to a phase of a nested STOP or a LOCKUP. -/
theorem Underway.atRecovery (h : Underway p c u) {b : Phase} {v : Byte} (hv : heldReturn (u.atPhase b) = some v)
    (hf : Fails u v) (hs : statusSeen p u.bci b := by trivial) : OnCourse p c ws (u.atPhase b) :=
  { h with
    status := hs
    progress := by rw [hv]; exact hf }

/-- What a decision of the sequencer can do, from `u` to `t`, `ws` written: the transaction stays on course, or ends, and
with the result 0 only if it has written all its words. -/
def Decided (p : Config.Params) (c : Instr) (ws : List Byte) (u t : State) : Prop :=
  (t.trace = u.trace ∧ OnCourse p c ws t) ∨
    ∃ r, t.trace = .done c (some r) :: u.trace ∧ (r = 0#8 → ws = phaseOrder p c)

/-- A value that fails ends it. -/
theorem Underway.decided_of_fails (h : Underway p c u) (hwf : p.wf = true) {v : Byte} (hf : Fails u v) :
    Decided p c ws u (returnWith v u) := by
  rw [returnWith_rejected hf.2]
  obtain ⟨rfl, rfl, -, -⟩ := h
  exact .inr ⟨_, rfl, fun hr => absurd hr (hf.res hwf)⟩

end Course

/-! ## Decisions -/

section Decisions

variable {p : Config.Params} {c : Instr} {ws : List Byte} {u : State}

/-- Entering a transaction step, IDX set on the way. -/
theorem Underway.enterStep (h : Underway p c u) {q : Seq} {n : Nat} (hr : stepReady { u with idx := n } q)
    (hq : q ≠ .idle) (hw : ws = wordsBefore { u with seq := q, idx := n }) :
    Decided p c ws u (enterStep { u with idx := n } q) :=
  .inl ⟨rfl,
    { params := h.params
      command := h.command
      busy := hq
      ready := by cases q <;> exact hr
      status := by cases q <;> trivial
      progress := by cases q <;> exact hw.trans (List.append_nil _).symm }⟩

theorem replicate_append_singleton (n : Nat) (w : Byte) : List.replicate n w ++ [w] = List.replicate (n + 1) w :=
  List.replicate_succ'.symm

/-- The next payload byte, or the final STOP after the last. -/
theorem Underway.payloadLoop (h : Underway p c u) (ho : u.opr = false) {n : Nat} (hn : n ≤ u.cnt)
    (hw : ws = openingWords u.params ++ List.replicate n (wSendWord u.params)) :
    Decided p c ws u (payloadLoop { u with idx := n }) := by
  unfold Machine.payloadLoop
  split_ifs with hlt
  · exact h.enterStep ⟨ho, hlt⟩ nofun hw
  · have hcnt : n = u.cnt := le_antisymm hn (not_lt.mp hlt)
    refine h.enterStep trivial nofun ?_
    simp only [wordsBefore, ho, Bool.false_eq_true, if_false]
    rw [hw, hcnt]

theorem Underway.endTransaction (h : Underway p c u) (hw : ws = phaseOrder p c) :
    Decided p c ws u (endTransaction u) := by
  obtain ⟨-, rfl, -, -⟩ := h
  exact .inr ⟨_, rfl, fun _ => hw⟩

theorem recvCount_pos (cnt : Nat) : 0 < recvCount cnt := by
  unfold recvCount
  split_ifs <;> omega

/-- With the word of the final STOP the order is complete. -/
theorem Underway.phaseOrder_eq (h : Underway p c u) (hs : u.seq = .tStop) :
    phaseOrder p c = wordsBefore u ++ primitiveWord u := by
  obtain ⟨rfl, rfl, -, -⟩ := h
  cases ho : u.opr <;>
    simp [commandOf, phaseOrder, writeSequence, readSequence, wordsBefore, primitiveWord, primitiveOf, issueWord,
      openingWords, readOpeningWords, hs, ho]

/-- After a primitive that returned 0, its word written, the next one is entered (R130 to R132). -/
theorem Underway.decided_of_zero (h : Underway p c u) (hs : u.seq ≠ .tRdata)
    (hw : ws = wordsBefore u ++ primitiveWord u) : Decided p c ws u (returnWith 0#8 u) := by
  rw [returnWith_zero hs]
  have hu : Underway p c { u with rv := 0#8 } := { h with }
  have hready := h.ready
  have hwords := hw
  unfold continueAfter
  cases hq : u.seq <;> rw [hq] at hready <;> simp only [wordsBefore, primitiveWord, primitiveOf, hq] at hw
  case idle => exact absurd hq h.busy
  case tStart => exact hu.enterStep (n := u.idx) trivial nofun hw
  case tAddrW => exact hu.enterStep (n := u.idx) trivial nofun hw
  case tReg =>
    dsimp only
    split_ifs with ho
    · exact hu.enterStep (n := u.idx) ho nofun hw
    · exact hu.payloadLoop (by simpa using ho) (Nat.zero_le _) hw
  case tWdata =>
    refine hu.payloadLoop hready.1 hready.2 ?_
    rw [hw, List.append_assoc, ← replicate_append_singleton]
    rfl
  case tRstart => exact hu.enterStep (n := u.idx) hready nofun hw
  case tAddrR =>
    refine hu.enterStep ⟨hready, recvCount_pos _⟩ nofun ?_
    rw [hw, List.append_assoc]
    rfl
  case tRdata => exact absurd hq hs
  case tStop => exact hu.endTransaction (hwords.trans (h.phaseOrder_eq hq).symm)
  case tDone => exact hready.elim

/-- After the byte of a receive is stored, the next receive or, after the last, the final STOP (R132). -/
theorem Underway.decided_of_store (h : Underway p c u) (hs : u.seq = .tRdata)
    (hw : ws = wordsBefore u ++ primitiveWord u) : Decided p c ws u (afterStore u) := by
  obtain ⟨hopr, hidx⟩ : u.opr = true ∧ u.idx < recvCount u.cnt := by
    have hready := h.ready
    rwa [hs] at hready
  have hack := wantsAck_eq u
  simp only [wordsBefore, primitiveWord, primitiveOf, hs] at hw
  unfold afterStore
  by_cases hmore : u.idx + 1 < recvCount u.cnt
  · rw [hack, decide_eq_true hmore] at hw ⊢
    refine h.enterStep ⟨hopr, hmore⟩ nofun ?_
    rw [hw, List.append_assoc]
    exact congrArg _ (replicate_append_singleton _ _)
  · rw [hack, decide_eq_false hmore] at hw ⊢
    have hlast : recvCount u.cnt - 1 = u.idx := by omega
    refine h.enterStep (n := u.idx) trivial nofun ?_
    simp only [wordsBefore, hopr, if_true, hlast]
    exact hw

end Decisions

/-! ## Positions -/

/-- What an engine action can do to a transaction on course: one action of 00_scope.md R9, and a decision. -/
def Reached (p : Config.Params) (c : Instr) (ws : List Byte) (s t : State) : Prop :=
  ∃ u e, u.trace = e :: s.trace ∧ transactionDone e = false ∧ Decided p c (ws ++ crWords [e]) u t

section Positions

variable {p : Config.Params} {c : Instr} {ws : List Byte} {s u t : State}

/-- An action that is no CR write, then a decision. -/
theorem Decided.reached (h : Decided p c ws u t) {e : Event} (ht : u.trace = e :: s.trace)
    (hd : transactionDone e = false := by rfl) (he : crWords [e] = [] := by rfl) : Reached p c ws s t :=
  ⟨u, e, ht, hd, by rwa [he, List.append_nil]⟩

/-- An action that is no CR write and moves on inside the primitive. -/
theorem OnCourse.reached (h : OnCourse p c ws t) {e : Event} (ht : t.trace = e :: s.trace)
    (hd : transactionDone e = false := by rfl) (he : crWords [e] = [] := by rfl) : Reached p c ws s t :=
  Decided.reached (u := t) (.inl ⟨rfl, h⟩) ht hd he

theorem fails_of_status {v : Byte} (hv : v ≠ 0#8)
    (hreq : s.seq = .tRdata → v ≠ requestedStatus s.params (wantsAck s)) : Fails s v := by
  refine ⟨hv, ?_⟩
  by_cases hs : s.seq = .tRdata
  · exact rejected_of_unrequested hs (hreq hs)
  · exact rejected_of_ne_zero hs hv

theorem primitiveOf_ne_none (hi : s.seq ≠ .idle) (hd : s.seq ≠ .tDone) : primitiveOf s ≠ none := by
  unfold primitiveOf
  split <;> simp_all

theorem primitiveOf_receive {prim : Primitive} (hs : primitiveOf s = some prim) :
    (∃ ack, prim = .recvByte ack) ↔ s.seq = .tRdata := by
  unfold primitiveOf at hs
  split at hs <;> cases hs <;> simp [*]

theorem arbitrate_receive (p : Config.Params) (st : Byte) (ack : Bool) :
    arbitrate p st (.recvByte ack) = if st = p.stArbLost then .full else .asIs := rfl

theorem OnCourse.stepEntry (h : OnCourse p c ws s) (hu : positionUsed s.seq s.ph = true) (hp : s.ph = .entry) :
    Reached p c ws s (stepEntry s) := by
  have hs : s.seq = .tStart := by
    have hready := h.ready
    have hbusy := h.busy
    rw [hp] at hu
    cases hq : s.seq <;> rw [hq] at hu hready hbusy
    case idle => exact absurd rfl hbusy
    case tDone => exact hready.elim
    all_goals cases hu
  have ht : Underway p c (sampleT0 s) := { h with }
  have hwords := h.words hp
  simp only [Machine.stepEntry, hs]
  exact (ht.atPhase (b := .issue) trivial hwords).reached rfl

theorem OnCourse.stepPoll (h : OnCourse p c ws s) (hp : s.ph = .poll) : Reached p c ws s (stepPoll s) := by
  have ht : Underway p c (pollAction s) := { h with }
  have hstatus : statusSeen p s.bci .poll := hp ▸ h.status
  have hwords := h.words hp
  have hstay : Reached p c ws s (pollAction s) := (ht.onCourse hp hstatus hwords).reached rfl
  have hclock : Reached p c ws s ((pollAction s).atPhase .clock) := (ht.atPhase (b := .clock) hstatus hwords).reached rfl
  unfold Machine.stepPoll
  split_ifs with hs hd _ hd _
  · exact (ht.decided_of_zero (by simp [pollAction, hs]) hwords).reached rfl
  · exact hstay
  · exact hclock
  · rw [waitComplete_int] at hd
    exact (ht.atPhase (b := .eval) (hstatus hd) hwords).reached rfl
  · exact hstay
  · exact hclock

theorem OnCourse.stepClock (h : OnCourse p c ws s) (hp : s.ph = .clock) : Reached p c ws s (stepClock s) := by
  have ht : Underway p c (clockAction s) := { h with }
  have hstatus : statusSeen p s.bci .clock := hp ▸ h.status
  have hwords := h.words hp
  unfold Machine.stepClock
  split_ifs
  · exact (ht.atRecovery (b := .lock0 .timedOut) rfl (fails_eTimeout _)).reached rfl
  · exact (ht.atPhase (b := .poll) hstatus hwords).reached rfl

/-- The status evaluated is not 0, so whatever is no success fails. -/
theorem OnCourse.stepEval (h : OnCourse p c ws s) (hwf : p.wf = true) (hp : s.ph = .eval) :
    Reached p c ws s (stepEval s) := by
  have ht : Underway p c (latchStatus s) := { h with }
  have hwords := h.words hp
  have hst : (latchStatus s).st ≠ 0#8 := by
    have hstatus : statusSeen p s.bci .eval := hp ▸ h.status
    rwa [← h.params] at hstatus
  have hmask : (latchStatus s).st &&& s.params.srMask = (latchStatus s).st := masked_masked _ _
  unfold Machine.stepEval
  split
  case h_1 hnone => exact absurd hnone (primitiveOf_ne_none h.busy h.notDone)
  case h_2 prim hprim =>
    have hreceive := primitiveOf_receive hprim
    dsimp only
    split
    case h_1 ha =>
      refine (ht.decided_of_zero (fun hs => ?_) hwords).reached rfl
      obtain ⟨ack, rfl⟩ := hreceive.mpr hs
      rw [arbitrate_receive] at ha
      split_ifs at ha
    case h_2 ha =>
      by_cases hreq : s.seq = .tRdata ∧ (latchStatus s).st = requestedStatus s.params (wantsAck s)
      · rw [returnWith_requested (s := latchStatus s) (h.params ▸ hwf) hreq.1 hmask hreq.2]
        exact (Underway.atPhase (u := { latchStatus s with rv := (latchStatus s).st }) (b := .rdr) { h with } trivial
          hwords).reached rfl
      · exact (ht.decided_of_fails hwf (fails_of_status hst fun hs he => hreq ⟨hs, he⟩)).reached rfl
    case h_3 ha =>
      refine (ht.atRecovery (b := .nstop .t0) rfl (fails_of_status hst fun hs => ?_)).reached rfl
      obtain ⟨ack, rfl⟩ := hreceive.mpr hs
      exact absurd (arbitrate_graceful ha) (by simp)
    case h_4 ha =>
      refine (ht.atRecovery (b := .lock0 .status) rfl (fails_of_status hst fun hs => ?_)).reached rfl
      obtain ⟨ack, rfl⟩ := hreceive.mpr hs
      have hlost : (latchStatus s).st = s.params.stArbLost := by
        rw [arbitrate_receive] at ha
        split_ifs at ha with hlost
        exact hlost
      change (latchStatus s).st ≠ _
      rw [hlost]
      exact stArbLost_ne_requestedStatus (h.params ▸ hwf) _

theorem OnCourse.stepDr (h : OnCourse p c ws s) (hp : s.ph = .dr) : Reached p c ws s (stepDr s) := by
  have ht : Underway p c (drWrite (byteToSend s) s) := by
    rw [drWrite_frame]
    exact { h with }
  have hwords := h.words hp
  rw [drWrite_frame] at ht
  rw [Machine.stepDr, drWrite_frame]
  exact (ht.atPhase (b := .t0) trivial hwords).reached rfl

theorem OnCourse.stepRdr (h : OnCourse p c ws s) (hp : s.ph = .rdr) : Reached p c ws s (stepRdr s) := by
  have ht : Underway p c (latchReceived s) := { h with }
  have hwords := h.words hp
  exact (ht.atPhase (b := .bufw) trivial hwords).reached rfl

theorem OnCourse.stepBufw (h : OnCourse p c ws s) (hu : positionUsed s.seq s.ph = true) (hp : s.ph = .bufw) :
    Reached p c ws s (stepBufw s) := by
  have ht : Underway p c (bufWrite (recvIndex s) s.rxByte s) := { h with }
  have hwords := h.words hp
  exact (ht.decided_of_store (positionUsed_bufw (hp ▸ hu)) hwords).reached rfl

/-- A nested STOP returns its NACK status. -/
theorem OnCourse.nestedFails (h : OnCourse p c ws s) {sub : StopStep} (hp : s.ph = .nstop sub) : Fails s s.st :=
  h.fails (by simp only [heldReturn, hp])

theorem OnCourse.stepNestedT0 (h : OnCourse p c ws s) (hp : s.ph = .nstop .t0) :
    Reached p c ws s (stepNestedT0 s) := by
  have ht : Underway p c (sampleT0 s) := { h with }
  have hf : Fails (sampleT0 s) s.st := h.nestedFails hp
  exact (ht.atRecovery (b := .nstop .issue) rfl hf).reached rfl

theorem OnCourse.stepNestedPoll (h : OnCourse p c ws s) (hwf : p.wf = true) (hp : s.ph = .nstop .poll) :
    Reached p c ws s (stepNestedPoll s) := by
  have ht : Underway p c (pollAction s) := { h with }
  have hf : Fails (pollAction s) s.st := h.nestedFails hp
  have hnext (sub : StopStep) : OnCourse p c ws ((pollAction s).atPhase (.nstop sub)) := ht.atRecovery rfl hf
  unfold Machine.stepNestedPoll
  split_ifs
  · exact (ht.decided_of_fails hwf hf).reached rfl
  · have hstay : pollAction s = (pollAction s).atPhase (.nstop .poll) := by rw [← hp]; rfl
    rw [hstay]
    exact (hnext .poll).reached rfl
  · exact (hnext .clock).reached rfl

theorem OnCourse.stepNestedClock (h : OnCourse p c ws s) (hp : s.ph = .nstop .clock) :
    Reached p c ws s (stepNestedClock s) := by
  have ht : Underway p c (clockAction s) := { h with }
  have hf : Fails (clockAction s) s.st := h.nestedFails hp
  have hnext (sub : StopStep) : Reached p c ws s ((clockAction s).atPhase (.nstop sub)) :=
    (ht.atRecovery (b := .nstop sub) rfl hf).reached rfl
  unfold Machine.stepNestedClock
  split_ifs
  · exact hnext .lock0
  · exact hnext .poll

/-- The step of every position that writes no CR. -/
theorem OnCourse.plainStep (h : OnCourse p c ws s) (hwf : p.wf = true) (hu : positionUsed s.seq s.ph = true)
    (hw : controlWordAt s = none) : Reached p c ws s (plainStep s) := by
  unfold controlWordAt at hw
  unfold Machine.plainStep
  cases hp : s.ph with
  | entry => exact h.stepEntry hu hp
  | buf =>
    have ht : Underway p c (latchPayload s.idx s) := { h with }
    have hwords := h.words hp
    exact (ht.atPhase (b := .dr) trivial hwords).reached rfl
  | dr => exact h.stepDr hp
  | t0 =>
    have ht : Underway p c (sampleT0 s) := { h with }
    have hwords := h.words hp
    exact (ht.atPhase (b := .issue) trivial hwords).reached rfl
  | poll => exact h.stepPoll hp
  | clock => exact h.stepClock hp
  | eval => exact h.stepEval hwf hp
  | rdr => exact h.stepRdr hp
  | bufw => exact h.stepBufw hu hp
  | nstop sub =>
    cases sub with
    | t0 => exact h.stepNestedT0 hp
    | poll => exact h.stepNestedPoll hwf hp
    | clock => exact h.stepNestedClock hp
    | issue | lock0 | lock1 => simp [hp] at hw
  | issue =>
    have hprim : primitiveOf s = none := by simpa [hp] using hw
    exact absurd hprim (primitiveOf_ne_none h.busy h.notDone)
  | lock0 | lock1 => simp [hp] at hw

theorem Underway.busWrite (h : Underway p c s) (w : Byte) : Underway p c (busWrite w s) := by
  rw [busWrite_frame]
  exact { h with }

theorem Fails.busWrite {v : Byte} (h : Fails s v) (w : Byte) : Fails (busWrite w s) v := by
  rw [busWrite_frame]
  exact h

/-- An issuing word clears INT (30_encoding.md R85, 44_bus_controller.md R211). -/
theorem crWrite_issueWord_int (b : Bci) (hp : p.wf = true) (prim : Primitive) (d : Nat) :
    (b.crWrite p (issueWord p prim) d).int = false := by
  cases prim with
  | start => rw [issueWord, b.crWrite_wStart d hp]
  | sendAddr dir => rw [issueWord, b.crWrite_wSend d hp]
  | sendByte => rw [issueWord, b.crWrite_wSend d hp]
  | recvByte ack => cases ack <;> simp only [issueWord, wRnackWord_eq, b.crWrite_wSend d hp, b.crWrite_wRack d hp]
  | stop => rw [issueWord, b.crWrite_wStop d hp]

/-- The issue writes the word of the primitive in progress. -/
theorem OnCourse.issue (h : OnCourse p c ws s) (hwf : p.wf = true) (hp : s.ph = .issue) {prim : Primitive}
    (hprim : primitiveOf s = some prim) :
    Reached p c ws s ((Machine.busWrite (issueWord s.params prim) s).atPhase .poll) := by
  have ht := h.toUnderway.busWrite (issueWord s.params prim)
  have hwords : ws = wordsBefore s ++ [] := h.words hp
  have hint : (Machine.busWrite (issueWord s.params prim) s).bci.int = false := by
    rw [busWrite_bci]
    exact crWrite_issueWord_int _ (h.params ▸ hwf) _ _
  refine ⟨_, _, busWrite_trace _ _, rfl, .inl ⟨rfl, ht.atPhase (fun hi => ?_) ?_⟩⟩
  · rw [hint] at hi
    cases hi
  · have hword : primitiveWord s = [issueWord s.params prim] := by simp [primitiveWord, hprim]
    rw [busWrite_frame, hwords, List.append_nil]
    exact congrArg _ hword.symm

/-- The positions that write CR: the issue of a primitive, a nested STOP or a LOCKUP. -/
theorem OnCourse.controlWord (h : OnCourse p c ws s) (hwf : p.wf = true) {w : Byte} (hw : controlWordAt s = some w) :
    Reached p c ws s (afterControlWord (busWrite w s)) := by
  have ht := h.toUnderway.busWrite w
  have hrecovery {sub : Phase} {v : Byte} (hv : heldReturn ((Machine.busWrite w s).atPhase sub) = some v)
      (hf : Fails s v) (hst : statusSeen p (Machine.busWrite w s).bci sub) :
      Reached p c ws s ((Machine.busWrite w s).atPhase sub) :=
    ⟨_, _, busWrite_trace w s, rfl, .inl ⟨rfl, ht.atRecovery hv (hf.busWrite w) hst⟩⟩
  have hreturn {v : Byte} (hf : Fails s v) : Reached p c ws s (returnWith v (Machine.busWrite w s)) :=
    ⟨_, _, busWrite_trace w s, rfl, ht.decided_of_fails hwf (hf.busWrite w)⟩
  have houtcome (cause : Cause) : heldOutcome cause (Machine.busWrite w s) = heldOutcome cause s := by
    rw [busWrite_frame]
    cases cause <;> rfl
  unfold controlWordAt at hw
  unfold afterControlWord
  rw [busWrite_ph]
  cases hp : s.ph with
  | issue =>
    obtain ⟨prim, hprim, rfl⟩ : ∃ prim, primitiveOf s = some prim ∧ issueWord s.params prim = w := by
      simpa [hp] using hw
    exact h.issue hwf hp hprim
  | lock0 cause =>
    have hf : Fails s (heldOutcome cause s) := h.fails (by simp only [heldReturn, hp])
    exact hrecovery (congrArg some (houtcome cause)) hf trivial
  | lock1 cause =>
    have hf : Fails s (heldOutcome cause s) := h.fails (by simp only [heldReturn, hp])
    dsimp only
    rw [houtcome]
    exact hreturn hf
  | nstop sub =>
    have hf : Fails s s.st := h.nestedFails hp
    cases sub with
    | issue => exact hrecovery (congrArg some (busWrite_st w s)) hf trivial
    | lock0 => exact hrecovery (congrArg some (busWrite_st w s)) hf trivial
    | lock1 =>
      dsimp only
      rw [busWrite_st]
      exact hreturn hf
    | t0 | poll | clock => simp [hp] at hw
  | entry | dr | t0 | poll | clock | eval | rdr | buf | bufw => simp [hp] at hw

/-- An engine action of a transaction on course. -/
theorem OnCourse.engineAction (h : OnCourse p c ws s) (hwf : p.wf = true) (ha : engineAction s = .next t) :
    Reached p c ws s t := by
  obtain ⟨hu, rfl⟩ := engineAction_eq ha
  split
  · exact h.plainStep hwf hu ‹_›
  · exact h.controlWord hwf ‹_›

end Positions

/-! ## Schedules -/

section Schedules

variable {p : Config.Params} {c : Instr} {base : List Event} {s t : State}

/-- Since the trace was `base`, a transaction of command `c` is under way and on course. -/
def Ongoing (p : Config.Params) (c : Instr) (base : List Event) (s : State) : Prop :=
  ∃ new, s.trace = new ++ base ∧ new.all (fun e => !transactionDone e) = true ∧ OnCourse p c (crWords new.reverse) s

/-- Since the trace was `base`, it has ended, and with the result 0 only if it had written all its words. -/
def Ended (p : Config.Params) (c : Instr) (base : List Event) (s : State) : Prop :=
  ∃ later r new, s.trace = later ++ .done c (some r) :: (new ++ base) ∧
    new.all (fun e => !transactionDone e) = true ∧ (r = 0#8 → crWords new.reverse = phaseOrder p c)

theorem Ongoing.engineAction (h : Ongoing p c base s) (hwf : p.wf = true) (ha : engineAction s = .next t) :
    Ongoing p c base t ∨ Ended p c base t := by
  obtain ⟨new, hs, hnew, hcourse⟩ := h
  obtain ⟨u, e, hu, he, hd⟩ := hcourse.engineAction hwf ha
  have hall : (e :: new).all (fun e => !transactionDone e) = true := by simpa [he] using hnew
  have hwords : crWords (e :: new).reverse = crWords new.reverse ++ crWords [e] := by
    rw [List.reverse_cons, crWords_append]
  rw [hs] at hu
  rw [← hwords] at hd
  obtain ⟨ht, hcourse⟩ | ⟨r, ht, hr⟩ := hd
  · exact .inl ⟨e :: new, ht.trans hu, hall, hcourse⟩
  · exact .inr ⟨[], r, e :: new, by rw [ht, hu]; rfl, hall, hr⟩

/-- Events that are neither a DONE of a transaction nor a CR write, in a step that leaves it on course. -/
theorem Ongoing.quiet (h : Ongoing p c base s) (es : List Event) (ht : t.trace = es ++ s.trace)
    (hcourse : ∀ {ws}, OnCourse p c ws s → OnCourse p c ws t)
    (hd : es.all (fun e => !transactionDone e) = true := by rfl) (hw : crWords es.reverse = [] := by rfl) :
    Ongoing p c base t := by
  obtain ⟨new, hs, hnew, hon⟩ := h
  refine ⟨es ++ new, by rw [ht, hs, List.append_assoc], by rw [List.all_append, hd, hnew]; rfl, ?_⟩
  rw [List.reverse_append, crWords_append, hw, List.append_nil]
  exact hcourse hon

theorem Ongoing.busy (h : Ongoing p c base s) : ¬ s.ready = true := by
  obtain ⟨new, -, -, hcourse⟩ := h
  simpa [State.ready] using hcourse.busy

/-- While the transaction is under way only TIMEOUT and SETSPEED are accepted (40_lifecycle.md R110). -/
theorem Ongoing.accepted (h : Ongoing p c base s) {i : Instr} (ha : accepts i s = true) (hx : Accepted s i t) :
    Ongoing p c base t := by
  cases hx with
  | timeoutCmd ms => exact h.quiet [.done (.timeoutCmd ms) none] rfl fun hc => { hc with }
  | setSpeed fast => exact h.quiet [.done (.setSpeed fast) none, .brWrite _] rfl fun hc => { hc with }
  | beginCmd | endCmd | write | read => exact absurd ha h.busy

theorem Ongoing.engineStep (h : Ongoing p c base s) (hwf : p.wf = true) (hs : engineStep s = .next t) :
    Ongoing p c base t ∨ Ended p c base t := by
  obtain ha | ⟨w, rest, i, -, -, ha, hx⟩ := engineStep_cases hs
  · exact h.engineAction hwf ha
  · have hrest : Ongoing p c base { s with port := rest } := h.quiet [] rfl fun hc => { hc with }
    have hacc : accepts i { s with port := rest } = true := (accepts_congr i rfl).trans ha
    exact .inl (hrest.accepted hacc (exec_accepted hacc hx))

/-- A completion that draws a status other than 0 leaves that status in SR (44_bus_controller.md R213). -/
theorem statusSeen_complete {b : Bci} {sigma : Byte} (delta : Byte) (hz : sigma &&& p.srMask ≠ 0#8) (ph : Phase) :
    statusSeen p (b.complete p sigma delta) ph := by
  have hst : (b.complete p sigma delta).status p = sigma &&& p.srMask := writeField_and_same _ _ _
  cases ph <;> simp [statusSeen, hst, hz]

theorem statusSeen_stopDone {b : Bci} {ph : Phase} (h : statusSeen p b ph) : statusSeen p b.stopDone ph := by
  cases ph <;> exact h

theorem Ongoing.bciComplete (h : Ongoing p c base s) {sigma : Byte} (delta : Byte) (hz : sigma &&& p.srMask ≠ 0#8) :
    Ongoing p c base (bciComplete sigma delta s) := by
  unfold Machine.bciComplete
  split_ifs
  · refine h.quiet [] rfl fun hc => ?_
    have hstatus : statusSeen p (s.bci.complete s.params sigma delta) s.ph := by
      rw [hc.params]
      exact statusSeen_complete delta hz _
    exact { hc with status := hstatus }
  · exact h

theorem Ongoing.bciStopDone (h : Ongoing p c base s) : Ongoing p c base (bciStopDone s) := by
  unfold Machine.bciStopDone
  split_ifs
  · exact h.quiet [] rfl fun hc => { hc with status := statusSeen_stopDone hc.status }
  · exact h

/-- Every move of every agent that draws no status 0 (70_reset_and_hazards.md R281). -/
theorem Ongoing.stepMove (h : Ongoing p c base s) (hwf : p.wf = true) {m : Move} (hm : noZeroStatus p m = true)
    (hs : stepMove m s = .next t) : Ongoing p c base t ∨ Ended p c base t := by
  cases m with
  | engine => exact h.engineStep hwf hs
  | complete sigma delta => cases hs; exact .inl (h.bciComplete delta (by simpa [noZeroStatus] using hm))
  | stopDone => cases hs; exact .inl h.bciStopDone
  | tick => cases hs; exact .inl (h.quiet [] rfl fun hc => { hc with })
  | present w => cases hs; exact .inl (h.quiet [] rfl fun hc => { hc with })
  | hostRead i =>
    rw [show Machine.stepMove (.hostRead i) s = _ from hostRead_of_busy i (Bool.eq_false_iff.mpr h.busy)] at hs
    cases hs
  | hostWrite i b =>
    rw [show Machine.stepMove (.hostWrite i b) s = _ from hostWrite_of_busy i b (Bool.eq_false_iff.mpr h.busy)] at hs
    cases hs
  | foreignWrite r b => cases hs

/-- No move takes an event back. -/
theorem stepMove_trace {m : Move} (hs : stepMove m s = .next t) : ∃ es, t.trace = es ++ s.trace := by
  by_cases hm : m = .engine
  · subst hm
    obtain ha | ⟨w, rest, i, -, -, ha, hx⟩ := engineStep_cases hs
    · obtain ⟨es, ht, -⟩ := engineAction_writesOnly ha
      exact ⟨es, ht⟩
    · have hacc : accepts i { s with port := rest } = true := (accepts_congr i rfl).trans ha
      obtain ⟨es, ht, -⟩ := (exec_accepted hacc hx).writesOnly
      exact ⟨es, ht⟩
  · exact ⟨[], by rw [(stepMove_cases hm hs).1]; rfl⟩

theorem Ended.stepMove (h : Ended p c base s) {m : Move} (hs : stepMove m s = .next t) : Ended p c base t := by
  obtain ⟨later, r, new, htrace, hnew, hr⟩ := h
  obtain ⟨es, ht⟩ := stepMove_trace hs
  exact ⟨es ++ later, r, new, by rw [ht, htrace, List.append_assoc], hnew, hr⟩

theorem ongoing_or_ended_of_runMoves (hwf : p.wf = true) {moves : List Move}
    (hm : moves.all (noZeroStatus p) = true) (h : Ongoing p c base s ∨ Ended p c base s)
    (hs : runMoves moves s = .next t) : Ongoing p c base t ∨ Ended p c base t := by
  induction moves generalizing s with
  | nil => cases hs; exact h
  | cons m moves ih =>
    obtain ⟨hm0, hm⟩ : noZeroStatus p m = true ∧ moves.all (noZeroStatus p) = true := by simpa using hm
    rw [runMoves] at hs
    split at hs
    · next u hu => exact ih hm (h.elim (fun h => h.stepMove hwf hm0 hu) fun h => .inr (h.stepMove hu)) hs
    · cases hs
    · cases hs

/-- The first DONE of a transaction in a trace is where it is. -/
theorem done_unique {later new new' : List Event} {e e' : Event} (he : transactionDone e = true)
    (hnew' : new'.all (fun e => !transactionDone e) = true) (h : e' :: new' = later ++ e :: new) :
    e' = e ∧ new' = new := by
  cases later with
  | nil => simpa using h
  | cons d later =>
    simp only [List.cons_append, List.cons.injEq] at h
    have := List.all_eq_true.mp hnew' e (by simp [h.2])
    simp [he] at this

/-- What a trace that ends with the DONE of a result 0 says of the transaction since `base`. -/
theorem phaseOrder_of_done {i : Instr} {new : List Event} (h : Ongoing p c base t ∨ Ended p c base t)
    (ht : t.trace = .done i (some 0#8) :: (new ++ base)) (hnew : new.all (fun e => !transactionDone e) = true) :
    i = c ∧ crWords new.reverse = phaseOrder p c := by
  obtain ⟨new', ht', hnew', -⟩ | ⟨later, r, new', ht', hnew', hr⟩ := h
  · rw [ht', ← List.cons_append, List.append_cancel_right_eq] at ht
    subst ht
    simp [transactionDone] at hnew'
  · rw [ht', ← List.cons_append, ← List.cons_append, ← List.append_assoc, List.append_cancel_right_eq] at ht
    obtain ⟨he, rfl⟩ := done_unique rfl hnew ht.symm
    cases he
    exact ⟨rfl, hr rfl⟩

end Schedules

/-- An accepted transaction has written nothing yet. -/
theorem ongoing_accept (s : State) (isRead : Bool) (addr : SlaveAddr) (reg : Byte) (count : Nat) :
    Ongoing s.params (if isRead then .read addr reg count else .write addr reg count) s.trace
      (accept isRead addr reg count s) :=
  ⟨[], rfl, rfl,
    { params := rfl
      command := rfl
      busy := nofun
      ready := trivial
      status := trivial
      progress := rfl }⟩

/-- Settles O57: an accepted transaction is on course, every move keeps it so or ends it, and the DONE names where it
ended. -/
theorem successfulTransactionsFollowThePhaseOrder : Obligations.SuccessfulTransactionsFollowThePhaseOrder := by
  intro s s1 t i addr reg count moves new hwf hr hm hrun ht hnew
  refine ⟨fun hx => ?_, fun hx => ?_⟩
  · rw [exec_write_of_ready addr reg count hr] at hx
    cases hx
    have hend := ongoing_or_ended_of_runMoves hwf hm (.inl (ongoing_accept s false addr reg count)) hrun
    exact phaseOrder_of_done hend ht hnew
  · rw [exec_read_of_ready addr reg count hr] at hx
    cases hx
    have hend := ongoing_or_ended_of_runMoves hwf hm (.inl (ongoing_accept s true addr reg count)) hrun
    exact phaseOrder_of_done hend ht hnew

end Sys2Proof.Machine

/-! # Proofs: transactions against the reference slave (44_bus_controller.md R224; log 28)

A primitive against MOCK(A) is a few rounds: the event issued is completed before the poll, so the poll sees it, and its
status is the one the primitive wants. What matters between two primitives is written down once (`Between`): where the
engine stands, the command, BUF, the words written, a BCI with nothing in flight. The lemmas on primitives lead from one
such point to the next. -/

namespace Sys2Proof.Machine

/-! ## Rounds -/

/-- Some number of rounds with MOCK(A) leads from the one pair of slave and machine to the other. -/
def Rounds (m : Mock) (s : State) (m' : Mock) (t : State) : Prop := ∃ n, runMock n m s = (.next t, m')

namespace Rounds

variable {m m1 m2 : Mock} {s t u : State}

theorem refl (m : Mock) (s : State) : Rounds m s m s := ⟨0, rfl⟩

theorem head (h : mockRound m s = (.next t, m1)) (h' : Rounds m1 t m2 u) : Rounds m s m2 u := by
  obtain ⟨n, hn⟩ := h'
  exact ⟨n + 1, by rw [runMock, h]; exact hn⟩

theorem trans (h : Rounds m s m1 t) (h' : Rounds m1 t m2 u) : Rounds m s m2 u := by
  obtain ⟨n, hn⟩ := h
  induction n generalizing m s with
  | zero => cases hn; exact h'
  | succ n ih =>
    rw [runMock] at hn
    split at hn
    · next hr => exact head hr (ih hn)
    · cases hn
    · cases hn

/-- With nothing in flight and no command presented a round is the engine's action. -/
theorem action (hport : s.port = []) (hevt : s.bci.evt = .none) (ha : engineAction s = .next t)
    (h : Rounds m t m1 u) : Rounds m s m1 u := by
  have hc : s.bci.canComplete = false := by simp [Bci.canComplete, Bci.completes, hevt]
  have hs : s.bci.canStop = false := by simp [Bci.canStop, hevt]
  refine head ?_ h
  simp only [mockRound, hc, bciStopDone, hs, Bool.false_eq_true, if_false, engineStep_port_nil hport, ha]

/-- MOCK(A) completes the event in flight, and the engine acts. -/
theorem completion (hport : s.port = []) (hc : s.bci.canComplete = true) {sigma delta : Byte}
    (hm : m.respond s.params s.bci = (sigma, delta, m1))
    (ha : engineAction (s.withBci (s.bci.complete s.params sigma delta)) = .next t) (h : Rounds m1 t m2 u) :
    Rounds m s m2 u := by
  have hround : mockRound m s = (engineStep (s.withBci (s.bci.complete s.params sigma delta)), m1) := by
    simp only [mockRound, hc, if_true, hm, bciComplete]
  refine head ?_ h
  rw [hround, engineStep_port_nil (s := s.withBci (s.bci.complete s.params sigma delta)) hport, ha]

/-- The STOP in flight completes, and the engine acts. -/
theorem stopCompletion (hport : s.port = []) (hon : s.bci.on = true) (hevt : s.bci.evt = .stop)
    (ha : engineAction (s.withBci s.bci.stopDone) = .next t) (h : Rounds m t m1 u) : Rounds m s m1 u := by
  have hc : s.bci.canComplete = false := by simp [Bci.canComplete, Bci.completes, hevt]
  have hs : s.bci.canStop = true := by simp [Bci.canStop, hevt, hon]
  have hround : mockRound m s = (engineStep (s.withBci s.bci.stopDone), m) := by
    simp only [mockRound, hc, bciStopDone, hs, Bool.false_eq_true, if_false, if_true]
  refine head ?_ h
  rw [hround, engineStep_port_nil (s := s.withBci s.bci.stopDone) hport, ha]

/-- Rounds keep the invariant. -/
theorem inv (h : Rounds m s m1 t) (hi : Inv s) : Inv t := by
  obtain ⟨n, hn⟩ := h
  induction n generalizing m s with
  | zero => cases hn; exact hi
  | succ n ih =>
    rw [runMock] at hn
    split at hn
    · next hr =>
      refine ih ?_ hn
      unfold mockRound at hr
      split_ifs at hr
      · exact (hi.bciComplete _ _).engineStep (congrArg Prod.fst hr)
      · exact hi.bciStopDone.engineStep (congrArg Prod.fst hr)
    · cases hn
    · cases hn

end Rounds

/-! ## The wait of an event -/

/-- The state at the evaluation of the event that word `w` issued, `b` the BCI after its completion. -/
def awaited (s : State) (w : Byte) (b : Bci) : State :=
  { s with
    ph := .eval, t0 := s.now, tSample := s.timeout, bci := b
    trace := .crRead :: .crWrite w :: .now s.now :: s.trace }

theorem busWrite_issueWord {s : State} (hwf : s.params.wf = true) (prim : Primitive) :
    busWrite (issueWord s.params prim) s =
      { s with bci := s.bci.crWrite s.params (issueWord s.params prim) s.draws
               trace := .crWrite (issueWord s.params prim) :: s.trace } := by
  have hen : (issueWord s.params prim).getLsbD s.params.crEn = true := by
    obtain ⟨⟨hstart, -⟩, ⟨hsend, -⟩, ⟨hrack, -⟩, ⟨hstop, -⟩, -⟩ := word_bits hwf
    cases prim with
    | start => exact hstart
    | sendAddr dir => exact hsend
    | sendByte => exact hsend
    | recvByte ack => cases ack <;> assumption
    | stop => exact hstop
  rw [busWrite_frame, busWrite_bci, busWrite_trace, busWrite_draws, if_pos hen]

/-- The state between T0 and the poll: the primitive's word is written. -/
def issuedState (s : State) (w : Byte) (b : Bci) : State :=
  { s with ph := .poll, t0 := s.now, bci := b, trace := .crWrite w :: .now s.now :: s.trace }

section Event

variable {m m1 m2 : Mock} {s t : State} {prim : Primitive}

/-- T0 and the issue of any primitive; (T_START, P_ENTRY) is taken for P_T0 (log 11). -/
theorem rounds_issue (hwf : s.params.wf = true) (hport : s.port = []) (hevt : s.bci.evt = .none)
    (hpos : s.ph = .t0 ∨ (s.seq = .tStart ∧ s.ph = .entry)) (hu : positionUsed s.seq .t0 = true)
    (hprim : primitiveOf s = some prim)
    (h : Rounds m (issuedState s (issueWord s.params prim) (s.bci.crWrite s.params (issueWord s.params prim) s.draws))
      m1 t) : Rounds m s m1 t := by
  have hissue : positionUsed s.seq .issue = true := positionUsed_of_phaseEdge s.seq (.t0, .issue) (by decide) hu
  have ht0 : engineAction s = .next (stepT0 s) := by
    obtain hp | ⟨hs, hp⟩ := hpos
    · rw [engineAction_of_plain (hp ▸ hu) (by simp [controlWordAt, hp])]
      simp only [plainStep, hp]
    · rw [engineAction_of_plain (by rw [hs, hp]; rfl) (by simp [controlWordAt, hp])]
      simp only [plainStep, hp, stepEntry, hs]
  have hword : controlWordAt (stepT0 s) = some (issueWord s.params prim) := congrArg (Option.map _) hprim
  refine .action hport hevt ht0 (.action (s := stepT0 s) hport hevt (engineAction_write hissue hword) ?_)
  have hwrite : busWrite (issueWord s.params prim) (stepT0 s) = _ := busWrite_issueWord (s := stepT0 s) hwf prim
  rw [hwrite]
  exact h

/-- T0, issue, completion, poll and evaluation of every primitive but STOP. -/
theorem rounds_event (hwf : s.params.wf = true) (hport : s.port = []) (hevt : s.bci.evt = .none)
    (hpos : s.ph = .t0 ∨ (s.seq = .tStart ∧ s.ph = .entry)) (hu : positionUsed s.seq .t0 = true) (hstop : s.seq ≠ .tStop)
    (hprim : primitiveOf s = some prim) {w : Byte} (hw : issueWord s.params prim = w) {b : Bci}
    (hb : s.bci.crWrite s.params w s.draws = b) (hc : b.canComplete = true) {sigma delta : Byte}
    (hm : m.respond s.params b = (sigma, delta, m1))
    (h : Rounds m1 (stepEval (awaited s w (b.complete s.params sigma delta))) m2 t) : Rounds m s m2 t := by
  subst hw hb
  have hissue : positionUsed s.seq .issue = true := positionUsed_of_phaseEdge s.seq (.t0, .issue) (by decide) hu
  have hpoll : positionUsed s.seq .poll = true := positionUsed_of_phaseEdge s.seq (.issue, .poll) (by decide) hissue
  have hpollAction (b : Bci) (hint : b.int = true) :
      engineAction (issuedState s (issueWord s.params prim) b) =
        .next (awaited s (issueWord s.params prim) b) := by
    rw [engineAction_of_plain hpoll rfl]
    exact congrArg _ ((if_neg hstop).trans (if_pos ((waitComplete_int _).trans hint)))
  have heval (b : Bci) : engineAction (awaited s (issueWord s.params prim) b) = .next (stepEval (awaited s _ b)) :=
    engineAction_of_plain (positionUsed_eval hstop hpoll) rfl
  refine rounds_issue hwf hport hevt hpos hu hprim ?_
  refine .completion hport hc hm (hpollAction _ rfl) ?_
  exact .action (s := awaited s _ (Bci.complete _ _ _ _)) hport rfl (heval _) h

theorem stepEval_success (hprim : primitiveOf s = some prim)
    (ha : arbitrate s.params (s.bci.status s.params) prim = .success) : stepEval s = returnWith 0#8 (latchStatus s) := by
  have hst : (latchStatus s).st = s.bci.status s.params := rfl
  simp only [stepEval, hprim, hst, ha]

/-- A completion leaves the status drawn (44_bus_controller.md R213). -/
theorem complete_status (b : Bci) (p : Config.Params) (sigma delta : Byte) :
    (b.complete p sigma delta).status p = sigma &&& p.srMask :=
  writeField_and_same _ _ _

end Event

/-! ## MOCK(A)'s answers -/

/-- The ST_ codes are masked statuses (00_scope.md R7). -/
theorem statusCode_masked {p : Config.Params} (hwf : p.wf = true) {v : Byte} (hv : v ∈ p.statusCodes) :
    v &&& p.srMask = v := by
  simp only [Config.Params.wf, Config.Params.codesOk, Bool.and_eq_true, List.all_eq_true] at hwf
  obtain ⟨⟨⟨⟨⟨⟨-, hmask⟩, -⟩, -⟩, -⟩, -⟩, -⟩ := hwf
  exact beq_iff_eq.mp (hmask v hv)

theorem addressOf_slaW (a : SlaveAddr) : addressOf (slaW a) = a ∧ (slaW a).getLsbD 0 = false := by revert a; decide

theorem addressOf_slaR (a : SlaveAddr) : addressOf (slaR a) = a ∧ (slaR a).getLsbD 0 = true := by revert a; decide

/-- The slave after the data byte `v` (R224). -/
def Mock.received (m : Mock) (v : Byte) : Mock :=
  if m.fresh then { m with ptr := v, fresh := false }
  else { m with mem := bufSet m.mem m.ptr.toNat v, ptr := m.ptr + 1#8 }

theorem Mock.data_eq (m : Mock) (p : Config.Params) (b : Bci) :
    m.data p b = (p.stMtDataAck, b.dr, m.received b.dr) := by
  unfold Mock.data Mock.received
  split_ifs <;> rfl

/-! ## Between two primitives -/

/-- The BCI after an event: nothing in flight, the flag set. -/
structure Resting (b : Bci) (mode : Mode) : Prop where
  evt : b.evt = .none
  int : b.int = true
  mode : b.mode = mode

/-- A transaction accepted at `s1` that runs at `s`: the command is kept, `ws` is written, IDX and BUF are as given. -/
structure Between (s1 : State) (ws : List Byte) (idx : Nat) (buf : List Host.Cell) (s : State) : Prop where
  opr : s.opr = s1.opr
  adr : s.adr = s1.adr
  reg : s.reg = s1.reg
  cnt : s.cnt = s1.cnt
  params : s.params = s1.params
  port : s.port = []
  idx : s.idx = idx
  buf : s.buf = buf
  words : ∃ new, s.trace = new ++ s1.trace ∧ crWords new.reverse = ws

section Primitives

variable {s1 : State} {ws : List Byte} {idx : Nat} {buf : List Host.Cell} {m m1 m2 : Mock} {s t : State}

/-- Events after the word `w`. -/
theorem words_append {base : List Event} {e t : List Event} {w : List Byte}
    (h : ∃ new, t = new ++ base ∧ crWords new.reverse = ws) (hw : crWords e.reverse = w := by rfl) :
    ∃ new, e ++ t = new ++ base ∧ crWords new.reverse = ws ++ w := by
  obtain ⟨new, rfl, hnew⟩ := h
  exact ⟨e ++ new, (List.append_assoc _ _ _).symm, by rw [List.reverse_append, crWords_append, hnew, hw]⟩

/-- The state in which a primitive returns: `w`, its word, is all it wrote to CR. -/
theorem Between.returning (h : Between s1 ws idx buf s) (w : Byte) (b : Bci) :
    Between s1 (ws ++ [w]) idx buf (latchStatus (awaited s w b)) :=
  { h with words := words_append (e := [.srRead b.sr, .crRead, .crWrite w, .now s.now]) h.words }

/-- From `s` a primitive runs against MOCK(A) and returns 0: in the step it started in, `w` written, the BCI at rest. -/
def Succeeds (s1 : State) (ws : List Byte) (idx : Nat) (buf : List Host.Cell) (mode : Mode) (m : Mock) (s : State)
    (m1 : Mock) : Prop :=
  ∃ e, Rounds m s m1 (returnWith 0#8 e) ∧ Between s1 ws idx buf e ∧ Resting e.bci mode ∧ e.seq = s.seq

/-- A primitive from P_T0 succeeds when the slave answers its event with a status of R201's row "none, 0". -/
theorem Between.succeeds (h : Between s1 ws idx buf s) (hwf : s.params.wf = true) (hevt : s.bci.evt = .none)
    (hpos : s.ph = .t0 ∨ (s.seq = .tStart ∧ s.ph = .entry)) (hu : positionUsed s.seq .t0 = true) (hstop : s.seq ≠ .tStop)
    {prim : Primitive} (hprim : primitiveOf s = some prim) {w : Byte} (hw : issueWord s.params prim = w) {b : Bci}
    (hb : s.bci.crWrite s.params w s.draws = b) (hc : b.canComplete = true) {sigma delta : Byte}
    (hm : m.respond s.params b = (sigma, delta, m1)) (hcode : sigma ∈ s.params.statusCodes)
    (ha : arbitrate s.params sigma prim = .success) {mode : Mode} (hmode : b.modeAfter s.params sigma = mode) :
    Succeeds s1 (ws ++ [w]) idx buf mode m s m1 := by
  refine ⟨_, ?_, h.returning w (b.complete s.params sigma delta), ⟨rfl, rfl, hmode⟩, rfl⟩
  refine rounds_event hwf h.port hevt hpos hu hstop hprim hw hb hc hm ?_
  rw [stepEval_success (s := awaited s w _) hprim]
  · exact .refl _ _
  · exact (congrArg (arbitrate s.params · prim)
      ((complete_status b s.params sigma delta).trans (statusCode_masked hwf hcode))).trans ha

/-- START, initial or repeated (R165). -/
theorem Between.start (h : Between s1 ws idx buf s) (hwf : s.params.wf = true) (hevt : s.bci.evt = .none)
    (hpos : (s.seq = .tStart ∧ s.ph = .entry) ∨ (s.seq = .tRstart ∧ s.ph = .t0)) (m : Mock) :
    Succeeds s1 (ws ++ [wStartWord s.params]) idx buf .address m s m := by
  have hprim : primitiveOf s = some .start := by obtain ⟨hs, -⟩ | ⟨hs, -⟩ := hpos <;> simp [primitiveOf, hs]
  have hu : positionUsed s.seq .t0 = true := by obtain ⟨hs, -⟩ | ⟨hs, -⟩ := hpos <;> rw [hs] <;> rfl
  have hstop : s.seq ≠ .tStop := by obtain ⟨hs, -⟩ | ⟨hs, -⟩ := hpos <;> simp [hs]
  refine h.succeeds hwf hevt (hpos.symm.imp And.right id) hu hstop hprim rfl (Bci.crWrite_wStart _ _ hwf) rfl
    (sigma := if s.bci.busHeld then s.params.stRepStart else s.params.stStart) (delta := s.bci.dr) rfl ?_ ?_ (if_pos rfl)
  · split_ifs <;> simp [Config.Params.statusCodes]
  · split_ifs <;> simp [arbitrate]

/-- P_DR with INT = 1: the byte to send is in DR. -/
def loaded (s : State) : State :=
  { s with ph := .t0, bci := { s.bci with dr := byteToSend s }, trace := .drWrite (byteToSend s) :: s.trace }

theorem Bci.drWrite_taken {b : Bci} (h : b.int = true) (v : Byte) (d : Nat) : b.drWrite v d = { b with dr := v } :=
  if_pos h

/-- SEND_ADDR or SEND_BYTE succeeds when the slave answers the byte sent with the ACK it wants (R166, R167). -/
theorem Between.send (h : Between s1 ws idx buf s) (hwf : s.params.wf = true) {mode mode' : Mode}
    (hrest : Resting s.bci mode) (hmode : mode ≠ .receive) (hp : s.ph = .dr)
    (hs : s.seq = .tAddrW ∨ s.seq = .tAddrR ∨ s.seq = .tReg ∨ s.seq = .tWdata) {prim : Primitive}
    (hprim : primitiveOf s = some prim) {sigma delta : Byte} (hcode : sigma ∈ s.params.statusCodes)
    (ha : arbitrate s.params sigma prim = .success)
    (hslave : ∀ b : Bci, b.dr = byteToSend s → b.mode = mode → b.evt = .send →
      m.respond s.params b = (sigma, delta, m1) ∧ b.modeAfter s.params sigma = mode') :
    Succeeds s1 (ws ++ [wSendWord s.params]) idx buf mode' m s m1 := by
  have hdr : engineAction s = .next (loaded s) := by
    rw [engineAction_dr hp hs, stepDr, drWrite_frame, Bci.drWrite_taken hrest.int, if_pos hrest.int]
    rfl
  have hword : issueWord s.params prim = wSendWord s.params := by
    unfold primitiveOf at hprim
    obtain hs | hs | hs | hs := hs <;> simp only [hs, Option.some.injEq] at hprim <;> subst hprim <;> rfl
  have hu : positionUsed s.seq .t0 = true := by obtain hs | hs | hs | hs := hs <;> rw [hs] <;> rfl
  have hstop : s.seq ≠ .tStop := by obtain hs | hs | hs | hs := hs <;> simp [hs]
  have hload : Between s1 ws idx buf (loaded s) :=
    { h with words := List.append_nil ws ▸ words_append (e := [.drWrite (byteToSend s)]) h.words }
  have hevt : (loaded s).bci.xferEvt false = .send := if_neg (hrest.mode.symm ▸ hmode)
  have hwrite := (loaded s).bci.crWrite_wSend (p := s.params) s.draws hwf
  rw [hevt] at hwrite
  obtain ⟨b, hb, hc, hm, hafter⟩ : ∃ b, (loaded s).bci.crWrite s.params (wSendWord s.params) s.draws = b ∧
      b.canComplete = true ∧ m.respond s.params b = (sigma, delta, m1) ∧ b.modeAfter s.params sigma = mode' :=
    ⟨_, hwrite, rfl, hslave _ rfl hrest.mode rfl⟩
  obtain ⟨e, hr, he⟩ := hload.succeeds hwf hrest.evt (.inl rfl) hu hstop hprim hword hb hc hm hcode ha hafter
  exact ⟨e, .action h.port hrest.evt hdr hr, he⟩

/-- SEND_ADDR to the slave's address (R224). -/
theorem Between.sendAddr (h : Between s1 ws idx buf s) (hwf : s.params.wf = true) (hrest : Resting s.bci .address)
    (hp : s.ph = .dr) (hadr : s.adr = m.addr) :
    (s.seq = .tAddrW →
      Succeeds s1 (ws ++ [wSendWord s.params]) idx buf .transmit m s { m with fresh := true }) ∧
    (s.seq = .tAddrR → Succeeds s1 (ws ++ [wSendWord s.params]) idx buf .receive m s m) := by
  refine ⟨fun hs => ?_, fun hs => ?_⟩
  · refine h.send hwf hrest nofun hp (.inl hs) (prim := .sendAddr .w) (by simp [primitiveOf, hs])
      (sigma := s.params.stMtSlaAck) (delta := byteToSend s) (by simp [Config.Params.statusCodes])
      (by simp [arbitrate, addrAck]) fun b hdr hmode hevt => ?_
    obtain ⟨haddr, hbit⟩ := addressOf_slaW m.addr
    rw [show byteToSend s = slaW m.addr by simp [byteToSend, hs, hadr]] at hdr ⊢
    simp only [Mock.respond, Mock.address, Bci.modeAfter, hevt, hmode, hdr, haddr, hbit, if_true, Bool.false_eq_true,
      Bool.false_and, if_false, reduceCtorEq, and_self]
  · refine h.send hwf hrest nofun hp (.inr (.inl hs)) (prim := .sendAddr .r) (by simp [primitiveOf, hs])
      (sigma := s.params.stMrSlaAck) (delta := byteToSend s) (by simp [Config.Params.statusCodes])
      (by simp [arbitrate, addrAck]) fun b hdr hmode hevt => ?_
    obtain ⟨haddr, hbit⟩ := addressOf_slaR m.addr
    have hmask := statusCode_masked hwf (v := s.params.stMrSlaAck) (by simp [Config.Params.statusCodes])
    rw [show byteToSend s = slaR m.addr by simp [byteToSend, hs, hadr]] at hdr ⊢
    simp only [Mock.respond, Mock.address, Bci.modeAfter, hevt, hmode, hdr, haddr, hbit, hmask, if_true, if_false,
      reduceCtorEq, beq_self_eq_true, Bool.and_self, and_self]

/-- SEND_BYTE to the slave (R224). -/
theorem Between.sendByte (h : Between s1 ws idx buf s) (hwf : s.params.wf = true) (hrest : Resting s.bci .transmit)
    (hp : s.ph = .dr) (hs : s.seq = .tReg ∨ s.seq = .tWdata) (m : Mock) :
    Succeeds s1 (ws ++ [wSendWord s.params]) idx buf .transmit m s (m.received (byteToSend s)) := by
  refine h.send hwf hrest nofun hp (.inr (.inr hs)) (prim := .sendByte)
    (by obtain hs | hs := hs <;> simp [primitiveOf, hs]) (sigma := s.params.stMtDataAck) (delta := byteToSend s)
    (by simp [Config.Params.statusCodes]) (by simp [arbitrate]) fun b hdr hmode hevt => ?_
  simp [Mock.respond, Mock.data_eq, Bci.modeAfter, hevt, hmode, hdr]

/-- The event of a receive, ACKed or not: the slave answers the status requested and drives its next register (R224). -/
theorem respond_receive (hwf : s.params.wf = true) (hrest : Resting s.bci .receive) (ack : Bool) :
    ∃ b, s.bci.crWrite s.params (issueWord s.params (.recvByte ack)) s.draws = b ∧ b.canComplete = true ∧
      b.mode = .receive ∧ b.evt ≠ .start ∧ m.respond s.params b =
        (requestedStatus s.params ack, bufGet m.mem m.ptr.toNat, { m with ptr := m.ptr + 1#8 }) := by
  have hevt (ea : Bool) : s.bci.xferEvt ea = if ea then .recvAck else .recvNack := if_pos hrest.mode
  cases ack with
  | true =>
    have hwrite := s.bci.crWrite_wRack (p := s.params) s.draws hwf
    rw [hevt] at hwrite
    exact ⟨_, hwrite, rfl, hrest.mode, nofun, rfl⟩
  | false =>
    have hwrite := s.bci.crWrite_wSend (p := s.params) s.draws hwf
    rw [hevt] at hwrite
    exact ⟨_, hwrite, rfl, hrest.mode, nofun, rfl⟩

/-- A receive that gets the status it requested goes on to read DR. -/
theorem stepEval_requested (hwf : s.params.wf = true) (hs : s.seq = .tRdata)
    (hst : s.bci.status s.params = requestedStatus s.params (wantsAck s)) :
    stepEval s = { latchStatus s with rv := s.bci.status s.params, ph := .rdr } := by
  have hlost : s.bci.status s.params ≠ s.params.stArbLost := hst ▸ (stArbLost_ne_requestedStatus hwf _).symm
  rw [stepEval_receive hs, if_neg hlost]
  exact returnWith_requested (s := latchStatus s) hwf hs (masked_masked _ _) hst

/-- The state at P_RDR after a receive, `w` its word and `b` the BCI. -/
def acceptedByte (s : State) (w : Byte) (b : Bci) : State :=
  { latchStatus (awaited s w b) with rv := b.status s.params, ph := .rdr }

/-- Where the store leaves a READ. -/
theorem Between.stored (h : Between s1 ws idx buf s) (hidx : idx < recvCount s.cnt) (w : Byte) (b : Bci) :
    (stepBufw (stepRdr (acceptedByte s w b))).bci = b ∧ (stepBufw (stepRdr (acceptedByte s w b))).ph = .t0 ∧
      (stepBufw (stepRdr (acceptedByte s w b))).seq = (if idx + 1 < recvCount s.cnt then .tRdata else .tStop) ∧
      Between s1 (ws ++ [w]) (if idx + 1 < recvCount s.cnt then idx + 1 else idx) (bufSet buf idx b.dr)
        (stepBufw (stepRdr (acceptedByte s w b))) := by
  obtain ⟨hopr, hadr, hreg, hcnt, hparams, hport, rfl, rfl, hwords⟩ := h
  rw [stepBufw_eq (s := stepRdr (acceptedByte s w b)) hidx]
  exact ⟨rfl, rfl, rfl, hopr, hadr, hreg, hcnt, hparams, hport, rfl, rfl,
    words_append (e := [.bufWrite _ _, .drRead _, .srRead _, .crRead, .crWrite w, .now _]) hwords⟩

/-- RECV_BYTE and the store of its byte (R168, R132). -/
theorem Between.receive (h : Between s1 ws idx buf s) (hwf : s.params.wf = true) (hrest : Resting s.bci .receive)
    (hs : s.seq = .tRdata) (hp : s.ph = .t0) (hidx : idx < recvCount s.cnt) (m : Mock) :
    ∃ t, Rounds m s { m with ptr := m.ptr + 1#8 } t ∧ Resting t.bci .receive ∧ t.ph = .t0 ∧
      t.seq = (if idx + 1 < recvCount s.cnt then .tRdata else .tStop) ∧
      Between s1 (ws ++ [if idx + 1 < recvCount s.cnt then wRackWord s.params else wRnackWord s.params])
        (if idx + 1 < recvCount s.cnt then idx + 1 else idx) (bufSet buf idx (bufGet m.mem m.ptr.toNat)) t := by
  have hprim : primitiveOf s = some (.recvByte (wantsAck s)) := by simp [primitiveOf, hs]
  obtain ⟨b, hb, hc, hmode, hstart, hm⟩ := respond_receive (m := m) hwf hrest (wantsAck s)
  have hcode : requestedStatus s.params (wantsAck s) ∈ s.params.statusCodes := by
    simp only [requestedStatus, Config.Params.statusCodes]
    split_ifs <;> simp
  have hword : issueWord s.params (.recvByte (wantsAck s)) =
      if idx + 1 < recvCount s.cnt then wRackWord s.params else wRnackWord s.params := by
    rw [wantsAck_eq, h.idx]
    by_cases hmore : idx + 1 < recvCount s.cnt <;> simp [hmore, issueWord]
  rw [hword] at hb
  generalize (if idx + 1 < recvCount s.cnt then wRackWord s.params else wRnackWord s.params) = w at hword hb ⊢
  obtain ⟨hbci, hph, hseq, hbetween⟩ := h.stored hidx w
    (b.complete s.params (requestedStatus s.params (wantsAck s)) (bufGet m.mem m.ptr.toNat))
  refine ⟨_, rounds_event hwf h.port hrest.evt (.inl hp) (by rw [hs]; rfl) (by simp [hs]) hprim hword hb hc hm ?_,
    ?_, hph, hseq, ?_⟩
  · have heval := stepEval_requested (s := awaited s w (b.complete s.params _ (bufGet m.mem m.ptr.toNat))) hwf hs
      ((complete_status b s.params _ _).trans (statusCode_masked hwf hcode))
    rw [heval]
    exact .action (s := acceptedByte s w _) h.port rfl (engineAction_rdr hs rfl)
      (.action (s := stepRdr (acceptedByte s w _)) h.port rfl (engineAction_bufw hs rfl) (.refl _ _))
  · rw [hbci]
    exact ⟨rfl, rfl, by simp [Bci.complete, Bci.modeAfter, hstart, hmode]⟩
  · simpa [Bci.complete, hstart] using hbetween

theorem waitComplete_sto_of_wf (hwf : s.params.wf = true) : waitComplete .sto s = !s.bci.sto := by
  have hd := wf_positions hwf
  have hne : s.params.crSto ≠ s.params.crInt := by
    intro he
    simp [Config.Params.crPositions, he] at hd
  simp [waitComplete, crReadBit, hne]

/-- The end of a transaction with the result 0: the engine is idle, BUF as it was. -/
structure Succeeded (s1 : State) (ws : List Byte) (buf : List Host.Cell) (t : State) : Prop where
  seq : t.seq = .idle
  res : t.res = 0#8
  buf : t.buf = buf
  params : t.params = s1.params
  port : t.port = []
  words : ∃ new, t.trace = new ++ s1.trace ∧ crWords new.reverse = ws

/-- A poll that sees the final STOP done ends the transaction with the result 0 (R169, R130). -/
theorem engineAction_stopDone (hwf : s.params.wf = true) (hs : s.seq = .tStop) (hp : s.ph = .poll)
    (hsto : s.bci.sto = false) :
    engineAction s = .next (endTransaction { pollAction s with rv := 0#8 }) := by
  have hdone : waitComplete .sto s = true := by rw [waitComplete_sto_of_wf hwf, hsto]; rfl
  have hreturn : returnWith 0#8 (pollAction s) = endTransaction { pollAction s with rv := 0#8 } := by
    rw [returnWith_zero (by simp [pollAction, hs])]
    simp only [continueAfter, pollAction, State.emit_seq, hs]
  rw [engineAction_of_plain (by rw [hs, hp]; rfl) (by simp [controlWordAt, hp])]
  simp only [plainStep, hp, stepPoll, hs, hdone, if_true, hreturn]

theorem endTransaction_of_zero (h : s.rv = 0#8) : (endTransaction s).res = 0#8 ∧ (endTransaction s).buf = s.buf := by
  have hres : mapResult s.rv (phaseConstant s.params s.seq) = 0#8 := by rw [h]; rfl
  refine ⟨hres, ?_⟩
  rw [endTransaction, hres, finishTransaction_buf, bytesDrawn_eq, if_pos rfl]
  rfl

/-- The final STOP (R169). -/
theorem Between.stop (h : Between s1 ws idx buf s) (hwf : s.params.wf = true) (hevt : s.bci.evt = .none)
    (hs : s.seq = .tStop) (hp : s.ph = .t0) (m : Mock) :
    ∃ t, Rounds m s m t ∧ Succeeded s1 (ws ++ [wStopWord s.params]) buf t := by
  have hprim : primitiveOf s = some .stop := by simp [primitiveOf, hs]
  obtain ⟨b, hb, hon, hstop⟩ : ∃ b, s.bci.crWrite s.params (issueWord s.params .stop) s.draws = b ∧ b.on = true ∧
      b.evt = .stop := ⟨_, s.bci.crWrite_wStop s.draws hwf, rfl, rfl⟩
  have hpoll := engineAction_stopDone (s := issuedState s (wStopWord s.params) b.stopDone) hwf hs rfl rfl
  obtain ⟨hres, hbuf⟩ := endTransaction_of_zero
    (s := { pollAction (issuedState s (wStopWord s.params) b.stopDone) with rv := 0#8 }) rfl
  refine ⟨_, rounds_issue hwf h.port hevt (.inl hp) (by rw [hs]; rfl) hprim ?_,
    { seq := rfl, res := hres, buf := hbuf.trans h.buf, params := h.params, port := h.port
      words := words_append (e := [_, .crRead, .crWrite (wStopWord s.params), .now s.now]) h.words }⟩
  rw [hb]
  exact .stopCompletion (s := issuedState s _ b) h.port hon hstop hpoll (.refl _ _)

end Primitives

end Sys2Proof.Machine

/-! # Proofs: WRITE, READ and the round trip with the reference slave (41_transactions.md R131, R132; R224)

The three settled statements are assembled from one lemma on the common opening and two inductions over the bytes left:
the payload loop of WRITE, with what the slave stored so far (`Stored`), and the receive loop of READ, with what BUF
received so far (`Fetched`). -/

namespace Sys2Proof.Machine

section Transactions

variable {s1 : State} {ws : List Byte} {idx : Nat} {buf : List Host.Cell} {mode : Mode} {m m1 : Mock} {s t : State}

/-! ## From one step to the next -/

/-- The transaction accepted at `s1` is at the first action of step `q`. -/
structure AtStep (s1 : State) (ws : List Byte) (idx : Nat) (buf : List Host.Cell) (mode : Mode) (q : Seq) (s : State) :
    Prop where
  between : Between s1 ws idx buf s
  rest : Resting s.bci mode
  seq : s.seq = q
  ph : s.ph = firstPhase q

theorem AtStep.wf {q : Seq} (h : AtStep s1 ws idx buf mode q s) (hwf : s1.params.wf = true) : s.params.wf = true :=
  h.between.params ▸ hwf

/-- A primitive that succeeded leads to the first action of the step the sequencer goes on to (R130). -/
theorem Succeeds.next (h : Succeeds s1 ws idx buf mode m s m1) (hs : s.seq ≠ .tRdata) {q : Seq} {i : Nat}
    (hq : ∀ e, e.seq = s.seq → Between s1 ws idx buf e →
      continueAfter e = { e with seq := q, ph := firstPhase q, idx := i }) :
    ∃ t, Rounds m s m1 t ∧ AtStep s1 ws i buf mode q t := by
  obtain ⟨e, hr, he, hrest, hseq⟩ := h
  rw [returnWith_zero (hseq ▸ hs), hq { e with rv := 0#8 } hseq { he with }] at hr
  exact ⟨_, hr, { he with idx := rfl }, hrest, rfl, rfl⟩

/-- START and SLA+W: the slave is addressed and takes the next byte for its pointer. -/
theorem opening (h : Between s1 [] idx buf s1) (hwf : s1.params.wf = true) (hevt : s1.bci.evt = .none)
    (hs : s1.seq = .tStart) (hp : s1.ph = .entry) (hadr : s1.adr = m.addr) :
    ∃ s, Rounds m s1 { m with fresh := true } s ∧
      AtStep s1 [wStartWord s1.params, wSendWord s1.params] idx buf .transmit .tReg s := by
  obtain ⟨s2, hr2, h2⟩ := (h.start hwf hevt (.inl ⟨hs, hp⟩) m).next (by simp [hs]) (q := .tAddrW) (i := idx)
    fun e he hb => by simp [continueAfter, he, hs, ← hb.idx, enterStep, State.goto]
  obtain ⟨s3, hr3, h3⟩ := ((h2.between.sendAddr (h2.wf hwf) h2.rest h2.ph (h2.between.adr.trans hadr)).1 h2.seq).next
    (by simp [h2.seq]) (q := .tReg) (i := idx) fun e he hb => by
      simp [continueAfter, he, h2.seq, ← hb.idx, enterStep, State.goto]
  rw [h2.between.params] at h3
  exact ⟨s3, hr2.trans hr3, h3⟩

/-! ## The payload of WRITE -/

/-- What the slave holds after `n` bytes of `buf`, from `m0`: they stand from register `reg` on, modulo 256. -/
structure Stored (m0 : Mock) (reg : Byte) (buf : List Host.Cell) (n : Nat) (m : Mock) : Prop where
  addr : m.addr = m0.addr
  wf : bufWf 256 m.mem = true
  fresh : m.fresh = false
  ptr : m.ptr = reg + BitVec.ofNat 8 n
  stored : ∀ i < n, n ≤ i + 256 → bufGet m.mem ((reg.toNat + i) % 256) = bufGet buf i
  kept : ∀ j : Byte, (∀ i < n, (reg.toNat + i) % 256 ≠ j.toNat) → bufGet m.mem j.toNat = bufGet m0.mem j.toNat

theorem toNat_add_ofNat (reg : Byte) (n : Nat) : (reg + BitVec.ofNat 8 n).toNat = (reg.toNat + n) % 256 := by
  rw [BitVec.toNat_add, BitVec.toNat_ofNat, Nat.add_mod_mod]

/-- The register byte sets the pointer, and nothing is stored yet. -/
theorem Stored.start {m0 : Mock} (h : bufWf 256 m0.mem = true) (reg : Byte) (buf : List Host.Cell) :
    Stored m0 reg buf 0 (Mock.received { m0 with fresh := true } reg) :=
  { addr := rfl, wf := h, fresh := rfl, ptr := (BitVec.add_zero reg).symm, stored := nofun, kept := fun _ _ => rfl }

/-- A further byte goes to the next register and to no other. -/
theorem Stored.received {m0 : Mock} {reg : Byte} {n : Nat} (h : Stored m0 reg buf n m) :
    Stored m0 reg buf (n + 1) (m.received (bufGet buf n)) := by
  obtain ⟨haddr, hwf, hfresh, hptr, hstored, hkept⟩ := h
  have hnext : m.received (bufGet buf n) =
      { m with mem := bufSet m.mem ((reg.toNat + n) % 256) (bufGet buf n), ptr := m.ptr + 1#8 } := by
    simp only [Mock.received, hfresh, hptr, toNat_add_ofNat, Bool.false_eq_true, if_false]
  rw [hnext]
  refine { addr := haddr, wf := bufSet_wf hwf _ (Nat.mod_lt _ (by decide)), fresh := hfresh, ptr := ?_, stored := ?_
           kept := ?_ }
  · rw [hptr, BitVec.add_assoc, BitVec.ofNat_add]
  · intro i hi hwrap
    obtain rfl | hlt := Nat.eq_or_lt_of_le (Nat.le_of_lt_succ hi)
    · exact bufGet_bufSet_same hwf _ _
    · exact (bufGet_bufSet_other _ _ (by omega)).trans (hstored i hlt (by omega))
  · intro j hj
    exact (bufGet_bufSet_other _ _ (hj n (Nat.lt_succ_self n)).symm).trans (hkept j fun i hi => hj i (by omega))

/-- Where the payload loop stands before byte `i` of `cnt` (R131). -/
def payloadStep (i cnt : Nat) : Seq := if i < cnt then .tWdata else .tStop

theorem payloadLoop_step (s : State) :
    payloadLoop s = { s with seq := payloadStep s.idx s.cnt, ph := firstPhase (payloadStep s.idx s.cnt) } := by
  rw [payloadLoop_eq, payloadStep]
  split_ifs <;> rfl

/-- One byte of the payload: it is read from BUF and sent. -/
theorem AtStep.payloadByte (h : AtStep s1 ws idx buf .transmit .tWdata s) (hwf : s1.params.wf = true) (m : Mock) :
    ∃ t, Rounds m s (m.received (bufGet buf idx)) t ∧
      AtStep s1 (ws ++ [wSendWord s1.params]) (idx + 1) buf .transmit (payloadStep (idx + 1) s1.cnt) t := by
  obtain ⟨hb, hrest, hs, hp⟩ := h
  have hload : Between s1 ws idx buf (stepBuf s) :=
    { hb with words := List.append_nil ws ▸ words_append (e := [.bufRead s.idx (bufGet s.buf s.idx)]) hb.words }
  have hseq : (stepBuf s).seq = .tWdata := hs
  have hbyte : byteToSend (stepBuf s) = bufGet buf idx := by
    simp only [byteToSend, hseq]
    rw [← hb.buf, ← hb.idx]
    rfl
  obtain ⟨t, hr, ht⟩ := (hload.sendByte (hload.params ▸ hwf) hrest rfl (.inr hs) m).next (by simp [hseq])
    (q := payloadStep (idx + 1) s1.cnt) (i := idx + 1) fun e he hbe => by
      simp [continueAfter, he, hseq, payloadLoop_step, hbe.idx, hbe.cnt]
  rw [hbyte] at hr
  rw [hload.params] at ht
  exact ⟨t, .action hb.port hrest.evt (engineAction_buf hs hp) hr, ht⟩

/-- The payload bytes from `idx` on, `left` in number, are sent and stored; the final STOP is next (R131). -/
theorem AtStep.payload {m0 : Mock} {reg : Byte} {left : Nat} (hwf : s1.params.wf = true) (hleft : s1.cnt = idx + left)
    (h : AtStep s1 ws idx buf .transmit (payloadStep idx s1.cnt) s) (hm : Stored m0 reg buf idx m) :
    ∃ t m', Rounds m s m' t ∧
      AtStep s1 (ws ++ List.replicate left (wSendWord s1.params)) s1.cnt buf .transmit .tStop t ∧
      Stored m0 reg buf s1.cnt m' := by
  induction left generalizing ws idx m s with
  | zero =>
    have hlast : payloadStep idx s1.cnt = .tStop := if_neg (by omega)
    obtain rfl : idx = s1.cnt := hleft.symm
    exact ⟨s, m, .refl m s, by simpa [hlast] using h, hm⟩
  | succ left ih =>
    have hmore : payloadStep idx s1.cnt = .tWdata := if_pos (by omega)
    obtain ⟨t, hr, ht⟩ := (hmore ▸ h).payloadByte hwf m
    obtain ⟨u, m', hr', hu, hm'⟩ := ih (by omega) ht hm.received
    refine ⟨u, m', hr.trans hr', ?_, hm'⟩
    rwa [List.append_assoc, List.singleton_append, ← List.replicate_succ] at hu

/-- A WRITE accepted at `s1` runs to its end against the slave it addresses (R131, R136). -/
theorem write_run (h : Between s1 [] idx buf s1) (hwf : s1.params.wf = true) (hevt : s1.bci.evt = .none)
    (hs : s1.seq = .tStart) (hp : s1.ph = .entry) (hopr : s1.opr = false) (hadr : s1.adr = m.addr)
    (hmem : bufWf 256 m.mem = true) :
    ∃ t m', Rounds m s1 m' t ∧ Succeeded s1 (writeSequence s1.params s1.cnt) buf t ∧ Stored m s1.reg buf s1.cnt m' := by
  obtain ⟨s, hr, hreg⟩ := opening h hwf hevt hs hp hadr
  have hbyte : byteToSend s = s1.reg := by simp [byteToSend, hreg.seq, hreg.between.reg]
  obtain ⟨t, hr', ht⟩ := (hreg.between.sendByte (hreg.wf hwf) hreg.rest hreg.ph (.inl hreg.seq) _).next
    (by simp [hreg.seq]) (q := payloadStep 0 s1.cnt) (i := 0) fun e he hbe => by
      simp [continueAfter, he, hreg.seq, payloadLoop_step, hbe.opr, hopr, hbe.cnt]
  rw [hbyte] at hr'
  rw [hreg.between.params] at ht
  obtain ⟨u, m', hr'', hu, hm'⟩ := ht.payload hwf (left := s1.cnt) (Nat.zero_add _).symm (.start hmem s1.reg buf)
  obtain ⟨v, hv, hend⟩ := hu.between.stop (hu.wf hwf) hu.rest.evt hu.seq hu.ph m'
  rw [hu.between.params] at hend
  exact ⟨v, m', hr.trans (hr'.trans (hr''.trans hv)), hend, hm'⟩

/-! ## The receives of READ -/

/-- What `buf` holds after `n` bytes received, from `buf0`: the registers of `m0` from `reg` on, modulo 256; the slave,
now `m`, has lost none. -/
structure Fetched (m0 : Mock) (reg : Byte) (size : Nat) (buf0 : List Host.Cell) (n : Nat) (m : Mock)
    (buf : List Host.Cell) : Prop where
  mem : m.mem = m0.mem
  ptr : m.ptr = reg + BitVec.ofNat 8 n
  wf : bufWf size buf = true
  fetched : ∀ a < n, bufGet buf a = bufGet m0.mem ((reg.toNat + a) % 256)
  kept : ∀ a ≥ n, bufGet buf a = bufGet buf0 a

/-- The next byte received goes to the next index of BUF and to no other. -/
theorem Fetched.next {m0 : Mock} {reg : Byte} {size n : Nat} {buf0 : List Host.Cell}
    (h : Fetched m0 reg size buf0 n m buf) (hn : n < size) :
    Fetched m0 reg size buf0 (n + 1) { m with ptr := m.ptr + 1#8 } (bufSet buf n (bufGet m.mem m.ptr.toNat)) := by
  obtain ⟨hmem, hptr, hwf, hfetched, hkept⟩ := h
  rw [hmem, hptr, toNat_add_ofNat]
  refine { mem := rfl, ptr := ?_, wf := bufSet_wf hwf _ hn, fetched := ?_, kept := ?_ }
  · exact (BitVec.add_assoc _ _ _).trans (by rw [BitVec.ofNat_add])
  · intro a ha
    obtain rfl | hlt := Nat.eq_or_lt_of_le (Nat.le_of_lt_succ ha)
    · exact bufGet_bufSet_same hwf _ _
    · exact (bufGet_bufSet_other _ _ (by omega)).trans (hfetched a hlt)
  · intro a ha
    exact (bufGet_bufSet_other _ _ (by omega)).trans (hkept a (by omega))

/-- One receive and the store of its byte, ACKed when more are wanted. -/
theorem AtStep.receiveByte (h : AtStep s1 ws idx buf .receive .tRdata s) (hwf : s1.params.wf = true)
    (hidx : idx < recvCount s1.cnt) (m : Mock) :
    ∃ t, Rounds m s { m with ptr := m.ptr + 1#8 } t ∧
      AtStep s1 (ws ++ [if idx + 1 < recvCount s1.cnt then wRackWord s1.params else wRnackWord s1.params])
        (if idx + 1 < recvCount s1.cnt then idx + 1 else idx) (bufSet buf idx (bufGet m.mem m.ptr.toNat)) .receive
        (if idx + 1 < recvCount s1.cnt then .tRdata else .tStop) t := by
  rw [← h.between.cnt] at hidx ⊢
  rw [← h.between.params]
  obtain ⟨t, hr, hrest, hp, hs, hb⟩ := h.between.receive (h.wf hwf) h.rest h.seq h.ph hidx m
  refine ⟨t, hr, hb, hrest, hs, hp.trans ?_⟩
  split_ifs <;> rfl

/-- The bytes from `idx` on, `left + 1` in number, are received: ACK to all but the last (R132). -/
theorem AtStep.receives {m0 : Mock} {reg : Byte} {size left : Nat} {buf0 : List Host.Cell} (hwf : s1.params.wf = true)
    (hleft : recvCount s1.cnt = idx + left + 1) (hsize : recvCount s1.cnt ≤ size)
    (h : AtStep s1 ws idx buf .receive .tRdata s) (hm : Fetched m0 reg size buf0 idx m buf) :
    ∃ t m' i buf', Rounds m s m' t ∧
      AtStep s1 (ws ++ (List.replicate left (wRackWord s1.params) ++ [wRnackWord s1.params])) i buf' .receive .tStop t ∧
      Fetched m0 reg size buf0 (recvCount s1.cnt) m' buf' := by
  induction left generalizing ws idx buf m s with
  | zero =>
    obtain ⟨t, hr, ht⟩ := h.receiveByte hwf (by omega) m
    have hlast : ¬ idx + 1 < recvCount s1.cnt := by omega
    simp only [if_neg hlast] at ht
    exact ⟨t, _, idx, _, hr, ht, hleft ▸ hm.next (by omega)⟩
  | succ left ih =>
    have hmore : idx + 1 < recvCount s1.cnt := by omega
    obtain ⟨t, hr, ht⟩ := h.receiveByte hwf (by omega) m
    simp only [if_pos hmore] at ht
    obtain ⟨u, m', i, buf', hru, hu, hmu⟩ := ih (by omega) ht (hm.next (by omega))
    refine ⟨u, m', i, buf', hr.trans hru, ?_, hmu⟩
    rwa [List.append_assoc, ← List.append_assoc [_], List.singleton_append, ← List.replicate_succ] at hu

/-- A READ accepted at `s1` runs to its end against the slave it addresses (R132, R136). -/
theorem read_run (h : Between s1 [] idx buf s1) (hwf : s1.params.wf = true) (hevt : s1.bci.evt = .none)
    (hs : s1.seq = .tStart) (hp : s1.ph = .entry) (hopr : s1.opr = true) (hadr : s1.adr = m.addr) {size : Nat}
    (hsize : recvCount s1.cnt ≤ size) (hbuf : bufWf size buf = true) :
    ∃ t m' buf', Rounds m s1 m' t ∧ Succeeded s1 (readSequence s1.params (recvCount s1.cnt)) buf' t ∧
      Fetched m s1.reg size buf (recvCount s1.cnt) m' buf' := by
  obtain ⟨s2, hr2, h2⟩ := opening h hwf hevt hs hp hadr
  have hbyte : byteToSend s2 = s1.reg := by simp [byteToSend, h2.seq, h2.between.reg]
  obtain ⟨s3, hr3, h3⟩ := (h2.between.sendByte (h2.wf hwf) h2.rest h2.ph (.inl h2.seq) _).next
    (by simp [h2.seq]) (q := .tRstart) (i := idx) fun e he hb => by
      simp [continueAfter, he, h2.seq, hb.opr, hopr, ← hb.idx, enterStep, State.goto]
  rw [hbyte] at hr3
  obtain ⟨s4, hr4, h4⟩ := (h3.between.start (h3.wf hwf) h3.rest.evt (.inr ⟨h3.seq, h3.ph⟩) _).next
    (by simp [h3.seq]) (q := .tAddrR) (i := idx) fun e he hb => by
      simp [continueAfter, he, h3.seq, ← hb.idx, enterStep, State.goto]
  obtain ⟨s5, hr5, h5⟩ := ((h4.between.sendAddr (m := Mock.received { m with fresh := true } s1.reg) (h4.wf hwf)
    h4.rest h4.ph (h4.between.adr.trans hadr)).2 h4.seq).next (by simp [h4.seq]) (q := .tRdata) (i := 0) fun e he hb => by
      simp [continueAfter, he, h4.seq, enterStep, State.goto]
  rw [h2.between.params, h3.between.params, h4.between.params] at h5
  have hm : Fetched m s1.reg size buf 0 (Mock.received { m with fresh := true } s1.reg) buf :=
    { mem := rfl, ptr := (BitVec.add_zero _).symm, wf := hbuf, fetched := nofun, kept := fun _ _ => rfl }
  obtain ⟨u, m', i, buf', hru, hu, hmu⟩ := h5.receives hwf (left := recvCount s1.cnt - 1)
    (by have := recvCount_pos s1.cnt; omega) hsize hm
  obtain ⟨v, hv, hend⟩ := hu.between.stop (hu.wf hwf) hu.rest.evt hu.seq hu.ph m'
  rw [hu.between.params] at hend
  refine ⟨v, m', buf', hr2.trans (hr3.trans (hr4.trans (hr5.trans (hru.trans hv)))), ?_, hmu⟩
  simpa [readSequence] using hend

/-- An acceptance leaves everything but the operands, and has written nothing. -/
theorem Between.accepted (isRead : Bool) (addr : SlaveAddr) (reg : Byte) (count : Nat) (hport : s.port = []) :
    Between (accept isRead addr reg count s) [] s.idx s.buf (accept isRead addr reg count s) :=
  { opr := rfl, adr := rfl, reg := rfl, cnt := rfl, params := rfl, port := hport, idx := rfl, buf := rfl
    words := ⟨[], rfl, rfl⟩ }

/-- `write_run` from the acceptance. -/
theorem write_from_accept (hi : Inv s) (hr : s.ready = true) (hport : s.port = []) (m : Mock) (reg : Byte) (count : Nat)
    (hmem : bufWf 256 m.mem = true) :
    ∃ t m', Rounds m (accept false m.addr reg count s) m' t ∧
      Succeeded (accept false m.addr reg count s) (writeSequence s.params count) s.buf t ∧ Stored m reg s.buf count m' :=
  write_run (Between.accepted false m.addr reg count hport) hi.paramsWf (hi.noEvent (hi.entry_of_ready hr))
    rfl rfl rfl rfl hmem

/-- `read_run` from the acceptance. -/
theorem read_from_accept (hi : Inv s) (hr : s.ready = true) (hport : s.port = []) (m : Mock) (reg : Byte) {count : Nat}
    (hc : count < 2 ^ s.params.countW) :
    ∃ t m' buf', Rounds m (accept true m.addr reg count s) m' t ∧
      Succeeded (accept true m.addr reg count s) (readSequence s.params (recvCount count)) buf' t ∧
      Fetched m reg s.params.bufSize s.buf (recvCount count) m' buf' :=
  read_run (Between.accepted true m.addr reg count hport) hi.paramsWf (hi.noEvent (hi.entry_of_ready hr))
    rfl rfl rfl rfl (recvCount_bounds hi.paramsWf hc).2 hi.bufCanonical

end Transactions

/-! ## The statements -/

/-- Settles O58: the opening, the payload loop and the STOP. -/
theorem writeReachesTheReferenceSlave : Obligations.WriteReachesTheReferenceSlave := by
  intro s s1 m reg count hi _ hr hport hmem _ hexec
  obtain rfl : _ = s1 := Host.Outcome.next.inj ((exec_write_of_ready m.addr reg count hr).symm.trans hexec)
  obtain ⟨t, m', ⟨n, hn⟩, hend, hm'⟩ := write_from_accept hi hr hport m reg count hmem
  exact ⟨n, t, m', hn, hend.seq, hend.res, hend.words, fun a => by rw [hend.buf], hm'.ptr, hm'.stored, hm'.kept⟩

/-- Settles O59: the opening, the repeated START, the receives and the STOP. -/
theorem readFetchesFromTheReferenceSlave : Obligations.ReadFetchesFromTheReferenceSlave := by
  intro s s1 m reg count n' hi _ hr hport hc hn' hexec
  obtain rfl : n' = recvCount count := hn'
  obtain rfl : _ = s1 := Host.Outcome.next.inj ((exec_read_of_ready m.addr reg count hr).symm.trans hexec)
  obtain ⟨t, m', buf', ⟨n, hn⟩, hend, hm'⟩ := read_from_accept hi hr hport m reg hc
  exact ⟨n, t, m', hn, hend.seq, hend.res, hend.words, hm'.mem, hend.buf ▸ hm'.fetched, hend.buf ▸ hm'.kept⟩

/-- Settles O60: the READ starts where the WRITE ended, and its registers are the ones the WRITE stored to. -/
theorem readGivesBackWhatWriteWrote : Obligations.ReadGivesBackWhatWriteWrote := by
  intro s s1 m reg count hi _ hr hport hmem hc hpos hle hexec
  obtain rfl : _ = s1 := Host.Outcome.next.inj ((exec_write_of_ready m.addr reg count hr).symm.trans hexec)
  obtain ⟨t, m', hwrite, hend, hm'⟩ := write_from_accept hi hr hport m reg count hmem
  have hready : t.ready = true := by rw [State.ready, hend.seq]; rfl
  have hparams : t.params = s.params := hend.params
  obtain ⟨u, m'', buf', hread, hend', hm''⟩ :=
    read_from_accept (hwrite.inv (hi.accept hr false m.addr reg hc)) hready hend.port m' reg (hparams ▸ hc)
  have hback : ∀ a < count, bufGet u.buf a = bufGet s.buf a := fun a ha => by
    rw [hend'.buf, hm''.fetched a (by rwa [recvCount, if_neg hpos]), hm'.stored a ha (by omega)]
  rw [hm'.addr] at hread
  obtain ⟨n, hn⟩ := hwrite
  obtain ⟨k, hk⟩ := hread
  exact ⟨n, t, m', _, k, u, m'', hn, hready, hend.res, exec_read_of_ready m.addr reg count hready, hk,
    by rw [State.ready, hend'.seq]; rfl, hend'.res, hback⟩

end Sys2Proof.Machine

/-! # Proofs: the phase primitives and their waits (42_phases.md)

A wait is a poll, and with a TIMEOUT a clock test. The phase of its clock test says which poll it goes back to, which
LOCKUP it enters on expiry, and what the primitive then returns (`pollOf`, `lockupOf`, `lockupOutcome`). A round of the
schedule that ticks once and lets the engine poll and test once is computed once (`runMoves_round`), and the rounds of a
wait are an induction on it (`runMoves_waitRounds`). -/

namespace Sys2Proof.Machine

/-! ## T0 (R163) -/

/-- Settles O34: the plain step of each of the three positions samples T0. -/
theorem t0IsSampledJustBeforeTheIssue : Obligations.T0IsSampledJustBeforeTheIssue := by
  intro s
  refine ⟨?_, fun hp hu => ?_⟩
  · rintro (⟨hp, hu⟩ | ⟨hs, hp⟩)
    · rw [engineAction_of_plain (hp ▸ hu) (by simp [controlWordAt, hp])]
      simp only [plainStep, hp]
      rfl
    · have hplain : plainStep s = stepT0 s := by simp only [plainStep, hp, stepEntry, hs]
      rw [engineAction_of_plain (by rw [hs, hp]; rfl) (by simp [controlWordAt, hp]), hplain]
      rfl
  · rw [engineAction_of_plain (hp ▸ hu) (by simp [controlWordAt, hp])]
    simp only [plainStep, hp]
    rfl

/-! ## The poll (R161) -/

/-- Settles O36: by `engineAction_poll` the action is the poll alone, and with a TIMEOUT the move to the clock test. -/
theorem aPollThatWaitsReadsTheClockOnlyWithATimeout : Obligations.APollThatWaitsReadsTheClockOnlyWithATimeout := by
  intro s kind clk hwait hc
  rw [engineAction_poll hwait hc]
  split_ifs <;> rfl

theorem WaitsAt.congr {s u : State} {kind : WaitKind} {clk : Phase} (h : WaitsAt s kind clk) (hs : u.seq = s.seq)
    (hp : u.ph = s.ph) : WaitsAt u kind clk := by
  cases h with
  | event hph hu hne => exact .event (hp.trans hph) (hs ▸ hu) (hs ▸ hne)
  | stop hph hq => exact .stop (hp.trans hph) (hs.trans hq)
  | nested hph hu => exact .nested (hp.trans hph) (hs ▸ hu)

/-- The flag of a wait is INT or STO, never a bit that a read leaves unspecified (44_bus_controller.md R211). -/
theorem waitComplete_congr {s u : State} (hwf : s.params.wf = true) (kind : WaitKind) (hb : u.bci = s.bci)
    (hparams : u.params = s.params) : waitComplete kind u = waitComplete kind s := by
  cases kind with
  | int => rw [waitComplete_int, waitComplete_int, hb]
  | sto => rw [waitComplete_sto_of_wf (hparams ▸ hwf), waitComplete_sto_of_wf hwf, hb]

/-! ## The timeout test (R162) -/

theorem timedOut_of_gt {p : Config.Params} {draw now t0 t : Nat} (h : elapsed p now t0 < t) :
    timedOut p draw now t0 t = false :=
  (if_neg h.not_gt).trans (if_neg h.ne)

/-- Under NEVER the boundary tick does not time out. -/
theorem timedOut_of_le {p : Config.Params} {draw now t0 t : Nat} (hp : p.timeoutAtEqual = .never)
    (h : elapsed p now t0 ≤ t) : timedOut p draw now t0 t = false := by
  simp only [timedOut, h.not_gt, hp, if_false, ite_self]

/-- Under MAY it is a draw. -/
theorem timedOut_of_eq {p : Config.Params} {draw now t0 t : Nat} (hp : p.timeoutAtEqual = .may)
    (h : elapsed p now t0 = t) : timedOut p draw now t0 t = Config.freeAtEqual draw := by
  simp only [timedOut, h, lt_irrefl, hp, if_false, if_true]

/-- Settles O38, by the three orders of the elapsed time and T. -/
theorem timeoutTestIsStrictAndModular : Obligations.TimeoutTestIsStrictAndModular := by
  refine ⟨rfl, ?_⟩
  rintro p draw now t0 t e - ht0 rfl
  rw [← elapsed_of_lt ht0]
  exact ⟨timedOut_of_lt, timedOut_of_gt, fun he hp => timedOut_of_le hp he.le, fun he hp => timedOut_of_eq hp he⟩

/-- A tick adds one to the elapsed time, short of the wrap (44_bus_controller.md R226). -/
theorem elapsed_tick {p : Config.Params} {now t0 : Nat} (h : elapsed p now t0 + 1 < 2 ^ p.clockW) :
    elapsed p ((now + 1) % 2 ^ p.clockW) t0 = elapsed p now t0 + 1 := by
  unfold elapsed at *
  rw [Nat.mod_add_mod, Nat.add_right_comm, ← Nat.mod_add_mod, Nat.mod_eq_of_lt h]

/-! ## The clock test of a wait (R161, R170) -/

/-- The poll of the wait whose clock test is at this phase. -/
def pollOf : Phase → Phase
  | .nstop _ => .nstop .poll
  | _ => .poll

/-- The first position of the LOCKUP that an expired clock test enters. -/
def lockupOf : Phase → Phase
  | .nstop _ => .nstop .lock0
  | _ => .lock0 .timedOut

/-- What the primitive returns after that LOCKUP: E_TIMEOUT, and after the nested STOP's its NACK status. -/
def lockupOutcome (st : Byte) : Phase → Byte
  | .nstop _ => st
  | _ => Config.eTimeout

theorem WaitsAt.ph_eq {s : State} {kind : WaitKind} {clk : Phase} (h : WaitsAt s kind clk) : s.ph = pollOf clk := by
  cases h <;> assumption

/-- A clock test goes back to its poll, or on expiry into LOCKUP. -/
theorem engineAction_clock {s : State} (hu : positionUsed s.seq s.ph = true)
    (hp : s.ph = .clock ∨ s.ph = .nstop .clock) :
    engineAction s = .next ((clockAction s).atPhase (if clockExpired s then lockupOf s.ph else pollOf s.ph)) := by
  obtain hp | hp := hp <;> rw [engineAction_of_plain hu (by simp [controlWordAt, hp])]
  · simp only [plainStep, hp, stepClock]
    split_ifs <;> rfl
  · simp only [plainStep, hp, stepNestedClock]
    split_ifs <;> rfl

theorem positionUsed_lockupOf {q : Seq} {clk : Phase} (hu : positionUsed q clk = true)
    (hclk : clk = .clock ∨ clk = .nstop .clock) : positionUsed q (lockupOf clk) = true := by
  obtain rfl | rfl := hclk
  · exact positionUsed_of_phaseEdge q (.clock, .lock0 .timedOut) (by decide) hu
  · exact positionUsed_of_phaseEdge q (.nstop .clock, .nstop .lock0) (by decide) hu

/-! ## The LOCKUP of a wait that timed out (43_recovery.md R200, R170) -/

theorem engineAction_nestedLock0 {s : State} (hp : s.ph = .nstop .lock0) (hu : positionUsed s.seq s.ph = true) :
    engineAction s = .next ((lockedOff .timedOut s).atPhase (.nstop .lock1)) := by
  rw [engineAction_write (w := wOffWord) hu (by simp [controlWordAt, hp])]
  simp only [afterControlWord, hp, busWrite_wOff]
  rfl

theorem engineAction_nestedLock1 {s : State} (hwf : s.params.wf = true) (hp : s.ph = .nstop .lock1)
    (hu : positionUsed s.seq s.ph = true) : engineAction s = .next (returnWith s.st (reenabled s)) := by
  have hafter : afterControlWord (reenabled s) = returnWith s.st (reenabled s) := by
    simp only [afterControlWord, show (reenabled s).ph = .nstop .lock1 from hp]
    rfl
  rw [engineAction_write (w := wEnableWord s.params) hu (by simp [controlWordAt, hp]), busWrite_wEnable hwf]
  exact congrArg _ hafter

/-- The LOCKUP of either kind of wait: its two writes, and the primitive's return in the step of the second. -/
theorem engineAction_lockup {s : State} {clk : Phase} (hwf : s.params.wf = true) (hp : s.ph = lockupOf clk)
    (hclk : clk = .clock ∨ clk = .nstop .clock) (hu : positionUsed s.seq (lockupOf clk) = true) :
    ∃ ph, engineAction s = .next ((lockedOff .timedOut s).atPhase ph) ∧
      engineAction ((lockedOff .timedOut s).atPhase ph) =
        .next (returnWith (lockupOutcome s.st clk) (reenabled ((lockedOff .timedOut s).atPhase ph))) := by
  obtain rfl | rfl := hclk
  · have hu1 : positionUsed s.seq (.lock1 .timedOut) = true :=
      positionUsed_of_phaseEdge s.seq (.lock0 .timedOut, .lock1 .timedOut) (by decide) hu
    exact ⟨_, engineAction_lock0 hp (hp ▸ hu), engineAction_lock1 (s := lockedOff .timedOut s) hwf rfl hu1⟩
  · have hu1 : positionUsed s.seq (.nstop .lock1) = true :=
      positionUsed_of_phaseEdge s.seq (.nstop .lock0, .nstop .lock1) (by decide) hu
    exact ⟨_, engineAction_nestedLock0 hp (hp ▸ hu),
      engineAction_nestedLock1 (s := (lockedOff .timedOut s).atPhase (.nstop .lock1)) hwf rfl hu1⟩

/-! ## What a return leaves -/

theorem continueAfter_rv_st (s : State) : (continueAfter s).rv = s.rv ∧ (continueAfter s).st = s.st := by
  unfold continueAfter
  split
  case h_3 => split_ifs <;> exact ⟨rfl, rfl⟩
  all_goals exact ⟨rfl, rfl⟩

/-- A return writes RV, and S stays. -/
theorem returnWith_rv_st (v : Byte) (s : State) : (returnWith v s).rv = v ∧ (returnWith v s).st = s.st := by
  obtain h | h | ⟨-, h⟩ := returnWith_cases v s <;> rw [h]
  · exact continueAfter_rv_st _
  · exact ⟨rfl, rfl⟩
  · exact ⟨rfl, rfl⟩

theorem returnWith_now (v : Byte) (s : State) : (returnWith v s).now = s.now :=
  congrArg Surroundings.now (returnWith_decision v s).surroundings

/-- A decision writes no CR. -/
theorem crWords_returnWith (v : Byte) (s : State) : crWords (returnWith v s).trace = crWords s.trace := by
  obtain ⟨-, ht⟩ | ⟨-, ht⟩ := (returnWith_decision v s).result <;> rw [ht]
  rfl

/-! ## The nested STOP (R170) -/

/-- The nested STOP stands in no receive (R168). -/
theorem positionUsed_nstop_ne_receive {q : Seq} {sub : StopStep} (h : positionUsed q (.nstop sub) = true) :
    q ≠ .tRdata := by
  rintro rfl
  cases sub <;> cases h

/-- What the return of the NACK status leaves: RV, S, and with a nonzero status the end of the transaction. -/
theorem returnWith_nack {s : State} {v : Byte} (hs : s.seq ≠ .tRdata) (hv : s.st = v) :
    (returnWith v s).rv = v ∧ (returnWith v s).st = v ∧
      (v ≠ 0#8 → v ≠ 1#8 → (returnWith v s).seq = .idle ∧ (returnWith v s).res = v) := by
  obtain ⟨hrv, hst⟩ := returnWith_rv_st v s
  refine ⟨hrv, hst.trans hv, fun h0 h1 => ?_⟩
  rw [returnWith_rejected (rejected_of_ne_zero hs h0)]
  exact ⟨rfl, (mapResult_eq v _).2 h1⟩

/-- A poll of the nested STOP that sees STO clear returns the NACK status. -/
theorem engineAction_nestedStopDone {s : State} (hwf : s.params.wf = true) (hp : s.ph = .nstop .poll)
    (hu : positionUsed s.seq s.ph = true) (hsto : s.bci.sto = false) :
    engineAction s = .next (returnWith s.st (pollAction s)) := by
  have hdone : waitComplete .sto s = true := by rw [waitComplete_sto_of_wf hwf, hsto]; rfl
  rw [engineAction_of_plain hu (by simp [controlWordAt, hp])]
  simp only [plainStep, hp, stepNestedPoll, hdone, if_true]

/-- Settles O45: both ways out of the nested STOP return S, at its poll or after its LOCKUP. -/
theorem theGracefulStopReturnsTheNack : Obligations.TheGracefulStopReturnsTheNack := by
  intro s hwf hport ha
  refine ⟨fun hp hu hsto => ?_, fun hp hu hexp => ?_⟩
  · rw [runSteps_action (engineAction_nestedStopDone hwf hp hu hsto) ha hport]
    exact ⟨_, rfl, returnWith_nack (positionUsed_nstop_ne_receive (hp ▸ hu)) rfl⟩
  · have hclock := engineAction_clock hu (.inr hp)
    rw [if_pos hexp, hp] at hclock
    rw [hp] at hu
    obtain ⟨ph, hoff, hon⟩ := engineAction_lockup (s := (clockAction s).atPhase (lockupOf (.nstop .clock))) hwf rfl
      (.inr rfl) (positionUsed_lockupOf hu (.inr rfl))
    rw [runSteps_action hclock ha hport, runSteps_action hoff ha hport, runSteps_action hon ha hport]
    obtain ⟨hrv, hst, hend⟩ := returnWith_nack (v := s.st)
      (s := reenabled ((lockedOff .timedOut ((clockAction s).atPhase (.nstop .lock0))).atPhase ph))
      (positionUsed_nstop_ne_receive hu) rfl
    exact ⟨_, rfl, hrv, hst, hend, crWords_returnWith _ _⟩

/-! ## The rounds of a wait (R172, 70_reset_and_hazards.md R285) -/

theorem runMoves_append {a b : List Move} {s t : State} (h : runMoves a s = .next t) :
    runMoves (a ++ b) s = runMoves b t := by
  induction a generalizing s with
  | nil => cases h; rfl
  | cons m a ih =>
    rw [runMoves] at h
    rw [List.cons_append, runMoves]
    split at h
    · exact ih h
    · cases h
    · cases h

/-- With no command presented the engine's move is its action. -/
theorem runMoves_engine {s t : State} {moves : List Move} (hport : s.port = []) (h : engineAction s = .next t) :
    runMoves (.engine :: moves) s = runMoves moves t := by
  rw [runMoves, show stepMove .engine s = engineStep s from rfl, engineStep_port_nil hport, h]

/-- One tick, one poll and one clock test of a wait whose flag is not seen. -/
theorem runMoves_round {s : State} {kind : WaitKind} {clk : Phase} (hwait : WaitsAt s kind clk)
    (hc : waitComplete kind s = false) (hport : s.port = []) (ht : s.timeout ≠ 0) :
    runMoves [.tick, .engine, .engine] s = .next { s with
      ph := if timedOut s.params s.draws ((s.now + 1) % 2 ^ s.params.clockW) s.t0 s.timeout then lockupOf clk
        else pollOf clk
      now := (s.now + 1) % 2 ^ s.params.clockW
      tSample := s.timeout
      trace := .now ((s.now + 1) % 2 ^ s.params.clockW) :: .crRead :: s.trace
      draws := s.draws + 1 } := by
  obtain ⟨hu, hclk⟩ := hwait.clockPosition
  have hpoll := engineAction_poll (s := tick s) (hwait.congr rfl rfl) hc
  rw [if_neg (show (tick s).timeout ≠ 0 from ht)] at hpoll
  have hclock := engineAction_clock (s := (pollAction (tick s)).atPhase clk) hu hclk
  calc runMoves [.tick, .engine, .engine] s
      _ = runMoves [.engine, .engine] (tick s) := rfl
      _ = runMoves [.engine] ((pollAction (tick s)).atPhase clk) := runMoves_engine hport hpoll
      _ = runMoves [] _ := runMoves_engine hport hclock
      _ = _ := by
        simp only [runMoves, clockExpired, clockAction, pollAction, tick, State.emit, State.drawn, State.atPhase]
        rfl

/-- `k` rounds of the schedule that ticks once and lets the engine poll and test once. -/
def waitRounds (k : Nat) : List Move := (List.replicate k [Move.tick, .engine, .engine]).flatten

theorem waitRounds_succ (k : Nat) : waitRounds (k + 1) = waitRounds k ++ [.tick, .engine, .engine] := by
  rw [waitRounds, List.replicate_succ', List.flatten_concat, waitRounds]

/-- What `k` rounds of a wait lead to: the registers the wait depends on are as they were, `k` ticks have passed, and no
CR word was written. -/
structure Waited (s : State) (k : Nat) (u : State) : Prop where
  seq : u.seq = s.seq
  bci : u.bci = s.bci
  params : u.params = s.params
  port : u.port = s.port
  timeout : u.timeout = s.timeout
  t0 : u.t0 = s.t0
  st : u.st = s.st
  ticks : elapsed s.params u.now s.t0 = elapsed s.params s.now s.t0 + k
  words : crWords u.trace = crWords s.trace

section Wait

variable {s u : State} {kind : WaitKind} {clk : Phase} {k : Nat} (hwf : s.params.wf = true) (hwait : WaitsAt s kind clk)
  (hc : waitComplete kind s = false) (hport : s.port = []) (hnever : s.params.timeoutAtEqual = .never)
  (ht : s.timeout ≠ 0) (hfit : s.timeout + 1 < 2 ^ s.params.clockW)

include hwf hwait hc hport hnever ht hfit

/-- A round ends the wait exactly if it starts at the TIMEOUT. -/
theorem Waited.next_round (h : Waited s k u) (hp : u.ph = s.ph) (hk : elapsed s.params s.now s.t0 + k ≤ s.timeout) :
    ∃ v, runMoves [.tick, .engine, .engine] u = .next v ∧ Waited s (k + 1) v ∧
      v.ph = if elapsed s.params s.now s.t0 + k = s.timeout then lockupOf clk else pollOf clk := by
  have hround := runMoves_round (hwait.congr h.seq hp) ((waitComplete_congr hwf kind h.bci h.params).trans hc)
    (h.port.trans hport) (h.timeout ▸ ht)
  rw [h.params, h.timeout, h.t0] at hround
  have htick : elapsed s.params ((u.now + 1) % 2 ^ s.params.clockW) s.t0 = elapsed s.params s.now s.t0 + (k + 1) := by
    rw [elapsed_tick (by rw [h.ticks]; omega), h.ticks, Nat.add_assoc]
  refine ⟨_, hround, ⟨h.seq, h.bci, rfl, h.port, rfl, rfl, h.st, htick, h.words⟩, ?_⟩
  obtain he | he := hk.lt_or_eq
  · rw [if_neg he.ne]
    exact if_neg (ne_true_of_eq_false (timedOut_of_le hnever (by omega)))
  · rw [if_pos he]
    exact if_pos (timedOut_of_lt (by omega))

/-- The rounds up to the TIMEOUT lead back to the poll. -/
theorem runMoves_waitRounds (hk : elapsed s.params s.now s.t0 + k ≤ s.timeout) :
    ∃ u, runMoves (waitRounds k) s = .next u ∧ Waited s k u ∧ u.ph = s.ph := by
  induction k with
  | zero => exact ⟨s, rfl, ⟨rfl, rfl, rfl, rfl, rfl, rfl, rfl, rfl, rfl⟩, rfl⟩
  | succ k ih =>
    obtain ⟨u, hrun, hwaited, hp⟩ := ih (by omega)
    obtain ⟨v, hround, hwaited', hp'⟩ := hwaited.next_round hwf hwait hc hport hnever ht hfit hp (by omega)
    rw [if_neg (by omega), ← hwait.ph_eq] at hp'
    exact ⟨v, by rw [waitRounds_succ, runMoves_append hrun, hround], hwaited', hp'⟩

/-- The round that starts at the TIMEOUT ends the wait, and two actions later its LOCKUP is over and its primitive has
returned. -/
theorem runMoves_waitRounds_expired (hk : elapsed s.params s.now s.t0 + k = s.timeout) :
    ∃ t, runMoves (waitRounds (k + 1) ++ [.engine, .engine]) s = .next t ∧
      elapsed s.params t.now s.t0 = s.timeout + 1 ∧
      crWords t.trace = [wEnableWord s.params, wOffWord] ++ crWords s.trace ∧ t.rv = lockupOutcome s.st clk := by
  obtain ⟨hu, hclk⟩ := hwait.clockPosition
  obtain ⟨u, hrun, hwaited, hp⟩ := runMoves_waitRounds hwf hwait hc hport hnever ht hfit hk.le
  obtain ⟨v, hround, hwaited, hp⟩ := hwaited.next_round hwf hwait hc hport hnever ht hfit hp hk.le
  rw [if_pos hk] at hp
  obtain ⟨ph, hoff, hon⟩ := engineAction_lockup (hwaited.params ▸ hwf) hp hclk
    (hwaited.seq ▸ positionUsed_lockupOf hu hclk)
  have hport' : v.port = [] := hwaited.port.trans hport
  refine ⟨returnWith (lockupOutcome v.st clk) (reenabled ((lockedOff .timedOut v).atPhase ph)), ?_, ?_, ?_, ?_⟩
  · rw [waitRounds_succ, List.append_assoc, runMoves_append hrun, runMoves_append hround, runMoves_engine hport' hoff,
      runMoves_engine (s := (lockedOff .timedOut v).atPhase ph) hport' hon, runMoves]
  · rw [returnWith_now, ← hk]
    exact hwaited.ticks
  · rw [crWords_returnWith, ← hwaited.words, ← hwaited.params]
    rfl
  · rw [(returnWith_rv_st _ _).1, hwaited.st]

end Wait

/-- Settles O41: the rounds that start before the elapsed time is TIMEOUT go back to the poll, and the one that starts
there ends the wait. -/
theorem aTimeoutFiresAtTheFirstTickPastIt : Obligations.ATimeoutFiresAtTheFirstTickPastIt := by
  intro s kind clk left hwf hwait hc hport hnever ht _ ht0 hfit hleft
  rw [← elapsed_of_lt ht0] at hleft
  refine ⟨fun k hk => ?_, ?_⟩
  · obtain ⟨u, hrun, hwaited, hp⟩ := runMoves_waitRounds (k := k) hwf hwait hc hport hnever ht hfit (by omega)
    exact ⟨u, hrun, hp, hwaited.seq, hwaited.words⟩
  · obtain ⟨t, hrun, hticks, hwords, hrv⟩ :=
      runMoves_waitRounds_expired hwf hwait hc hport hnever ht hfit hleft
    rw [elapsed_of_lt ht0] at hticks
    exact ⟨t, hrun, hticks, hwords, fun hclk => by rw [hrv, hclk]; rfl, fun hclk => by rw [hrv, hclk]; rfl⟩

/-! ## The issue (R160, R165 to R169) -/

theorem positionUsed_issue {s : State} {prim : Primitive} (h : primitiveOf s = some prim) :
    positionUsed s.seq .issue = true := by
  unfold primitiveOf at h
  cases hs : s.seq <;> rw [hs] at h
  case idle | tDone => cases h
  all_goals rfl

/-- At P_ISSUE the word of the primitive in progress is written. -/
theorem engineAction_issue {s : State} {prim : Primitive} (hp : s.ph = .issue) (hprim : primitiveOf s = some prim) :
    engineAction s = .next ((busWrite (issueWord s.params prim) s).atPhase .poll) := by
  rw [engineAction_write (w := issueWord s.params prim) (hp ▸ positionUsed_issue hprim)
    (by simp [controlWordAt, hp, hprim])]
  simp only [afterControlWord, busWrite_ph, hp]

/-- An issuing word leaves the BCI on, with an event in flight (30_encoding.md R86). -/
theorem crWrite_issueWord_evt (b : Bci) {p : Config.Params} (hp : p.wf = true) (prim : Primitive) (d : Nat) :
    (b.crWrite p (issueWord p prim) d).on = true ∧ (b.crWrite p (issueWord p prim) d).evt ≠ .none := by
  have hxfer (ea : Bool) : b.xferEvt ea ≠ .none := by
    obtain h | h | h := b.xferEvt_cases ea <;> simp [h]
  cases prim with
  | start => simp [issueWord, b.crWrite_wStart d hp]
  | sendAddr dir => simp [issueWord, b.crWrite_wSend d hp, hxfer]
  | sendByte => simp [issueWord, b.crWrite_wSend d hp, hxfer]
  | recvByte ack => cases ack <;> simp [issueWord, wRnackWord_eq, b.crWrite_wSend d hp, b.crWrite_wRack d hp, hxfer]
  | stop => simp [issueWord, b.crWrite_wStop d hp]

/-- Settles O47: the primitive of each step, and its word's CR write. -/
theorem eachStepIssuesItsControlWord : Obligations.EachStepIssuesItsControlWord := by
  intro s w hwf
  refine ⟨fun ⟨hp, hw⟩ => ?_, fun ⟨hp, hu⟩ => ?_⟩
  · obtain ⟨prim, hprim, rfl⟩ : ∃ prim, primitiveOf s = some prim ∧ issueWord s.params prim = w := by
      rw [show (if s.cnt = 0 then 1 else s.cnt) = recvCount s.cnt from rfl] at hw
      obtain ⟨hs | hs, rfl⟩ | ⟨hs | hs | hs | hs, rfl⟩ | ⟨hs, hmore, rfl⟩ | ⟨hs, hlast, rfl⟩ | ⟨hs, rfl⟩ := hw <;>
        simp [primitiveOf, issueWord, wantsAck_eq, *]
    rw [engineAction_issue hp hprim, busWrite_issueWord hwf]
    obtain ⟨hon, hevt⟩ := crWrite_issueWord_evt s.bci hwf prim s.draws
    exact ⟨_, rfl, crWrite_issueWord_int s.bci hwf prim s.draws, hon, hevt, rfl⟩
  · have hstop := s.bci.crWrite_wStop s.draws hwf
    rw [engineAction_write (w := issueWord s.params .stop) hu (by simp [controlWordAt, hp, issueWord])]
    simp only [afterControlWord, hp, busWrite_issueWord hwf]
    exact ⟨_, rfl, congrArg Bci.sto hstop, congrArg Bci.evt hstop, rfl⟩

end Sys2Proof.Machine

/-! # Proofs: recovery (43_recovery.md)

A LOCKUP's two writes end in the return of the outcome its primitive holds (`engineAction_lockup_of_position`). Where an
engine action can lead, as far as LOCKUP is concerned, is said once (`Leads`), and so are the words it writes to CR
(`engineAction_crWords`): the one its position holds, or none. A LOCKUP of a transaction on course returns a value that
ends it (`OnCourse.idle_of_secondWrite`), so the W_OFF words written since its acceptance are told by the phase
(`LockupsTold`). -/

namespace Sys2Proof.Machine

/-! ## LOCKUP (R200) -/

/-- W_ENABLE of a LOCKUP always completes. -/
theorem exec_wEnable {s : State} (hwf : s.params.wf = true) : exec .wEnable s = .next (reenabled s) := by
  have hmem : (controlWords s.params).contains (wEnableWord s.params) = true :=
    List.contains_iff_mem.mpr (by simp [controlWords])
  calc exec .wEnable s
      _ = .next (busWrite (wEnableWord s.params) s) := if_pos hmem
      _ = .next (reenabled s) := congrArg _ (busWrite_wEnable hwf)

/-- The two actions of a LOCKUP, a primitive's or the nested STOP's: what is returned after them was held from the
start. -/
theorem engineAction_lockup_of_position {s : State} (hwf : s.params.wf = true) (hu : positionUsed s.seq s.ph = true)
    (hp : (∃ cause, s.ph = .lock0 cause) ∨ s.ph = .nstop .lock0) :
    ∃ ph v, heldReturn s = some v ∧ engineAction s = .next ((lockedOff .timedOut s).atPhase ph) ∧
      engineAction ((lockedOff .timedOut s).atPhase ph) =
        .next (returnWith v (reenabled ((lockedOff .timedOut s).atPhase ph))) := by
  have edge := positionUsed_of_phaseEdge s.seq
  obtain ⟨cause, hp⟩ | hp := hp
  · have hu1 : positionUsed s.seq (.lock1 cause) = true :=
      edge (.lock0 cause, .lock1 cause) (by cases cause <;> decide) (hp ▸ hu)
    refine ⟨.lock1 cause, heldOutcome cause s, by simp only [heldReturn, hp], engineAction_lock0 hp hu, ?_⟩
    rw [engineAction_lock1 (s := (lockedOff .timedOut s).atPhase (.lock1 cause)) hwf rfl hu1]
    cases cause <;> rfl
  · have hu1 : positionUsed s.seq (.nstop .lock1) = true :=
      edge (.nstop .lock0, .nstop .lock1) (by decide) (hp ▸ hu)
    exact ⟨.nstop .lock1, s.st, by simp only [heldReturn, hp], engineAction_nestedLock0 hp hu,
      engineAction_nestedLock1 (s := (lockedOff .timedOut s).atPhase (.nstop .lock1)) hwf rfl hu1⟩

/-- Settles O42: the first write leaves a disabled BCI, the second turns it on, and the return leaves it alone. -/
theorem lockupReleasesTheBusAndReenables : Obligations.LockupReleasesTheBusAndReenables := by
  intro s hwf hu hp
  obtain ⟨ph, v, hv, hoff, hon⟩ := engineAction_lockup_of_position hwf hu hp
  have hbci (m : State) : (returnWith v m).bci = m.bci :=
    congrArg Surroundings.bci (returnWith_decision v m).surroundings
  have hps : (s.bci.disable s.params s.draws).ps s.params = s.bci.ps s.params := Bci.withStatus_ps _ hwf _
  have held {a : Phase} {w : Byte} (ha : s.ph = a) (hw : heldReturn (s.atPhase a) = some w) : v = w := by
    subst ha
    exact Option.some.inj (hv.symm.trans hw)
  exact ⟨_, _, v, hoff, exec_wEnable hwf, hon, rfl, rfl, rfl, rfl, rfl, rfl, rfl, rfl, rfl, hps, hbci _,
    (returnWith_rv_st v _).1, fun h => held h rfl, fun h => held h rfl, fun h => held h rfl⟩

/-! ## Where an engine action leads (R202) -/

/-- The four positions of a LOCKUP. -/
def inLockup : Phase → Bool
  | .lock0 _ => true
  | .lock1 _ => true
  | .nstop .lock0 => true
  | .nstop .lock1 => true
  | _ => false

/-- How an engine action at `s` moves to a position of LOCKUP: from one of the three places R202 admits, or on to the
second write. -/
inductive Enters (s : State) : Phase → Prop where
  | expired : s.ph = .clock → clockExpired s = true → Enters s (.lock0 .timedOut)
  | full {prim : Primitive} : s.ph = .eval → primitiveOf s = some prim →
      arbitrate s.params (s.bci.status s.params) prim = .full → Enters s (.lock0 .status)
  | nestedExpired : s.ph = .nstop .clock → clockExpired s = true → Enters s (.nstop .lock0)
  | secondWrite {cause : Cause} : s.ph = .lock0 cause → Enters s (.lock1 cause)
  | nestedSecondWrite : s.ph = .nstop .lock0 → Enters s (.nstop .lock1)

/-- How a step at `s` can get to a phase. -/
inductive Leads (s : State) (ph : Phase) : Prop where
  | stay : ph = s.ph → Leads s ph
  | outside : inLockup ph = false → Leads s ph
  | enters : Enters s ph → Leads s ph

section Leads

variable {s : State}

theorem Leads.enterStep (u : State) (q : Seq) : Leads s (enterStep u q).ph := .outside (by cases q <;> rfl)

/-- A return enters no LOCKUP. -/
theorem Leads.returnWith (s u : State) (v : Byte) (hu : u.ph = s.ph := by rfl) : Leads s (returnWith v u).ph := by
  obtain h | h | ⟨-, h⟩ := returnWith_cases v u <;> rw [h]
  · unfold continueAfter
    split
    case h_3 => unfold payloadLoop; split_ifs <;> exact Leads.enterStep _ _
    case h_4 => exact Leads.enterStep _ _
    case h_7 => exact .outside rfl
    case h_8 => exact .outside rfl
    case h_9 => exact .stay hu
    case h_10 => exact .stay hu
    all_goals exact Leads.enterStep _ _
  · exact .outside rfl
  · exact .outside rfl

theorem stepEntry_leads : Leads s (stepEntry s).ph := by
  unfold stepEntry
  split
  case h_2 => exact .outside rfl
  case h_3 => exact .outside rfl
  all_goals exact .stay rfl

theorem stepPoll_leads : Leads s (stepPoll s).ph := by
  unfold stepPoll
  split_ifs
  · exact Leads.returnWith s (pollAction s) _
  · exact .stay rfl
  · exact .outside rfl
  · exact .outside rfl
  · exact .stay rfl
  · exact .outside rfl

theorem stepClock_leads (hp : s.ph = .clock) : Leads s (stepClock s).ph := by
  unfold stepClock
  split_ifs with he
  · exact .enters (.expired hp he)
  · exact .outside rfl

theorem stepEval_leads (hp : s.ph = .eval) : Leads s (stepEval s).ph := by
  unfold stepEval
  split
  · exact .stay rfl
  · next prim hprim =>
    dsimp only
    split
    · exact Leads.returnWith s (latchStatus s) _
    · exact Leads.returnWith s (latchStatus s) _
    · exact .outside rfl
    · next hfull => exact .enters (.full hp hprim hfull)

theorem stepNestedPoll_leads : Leads s (stepNestedPoll s).ph := by
  unfold stepNestedPoll
  split_ifs
  · exact Leads.returnWith s (pollAction s) _
  · exact .stay rfl
  · exact .outside rfl

theorem stepNestedClock_leads (hp : s.ph = .nstop .clock) : Leads s (stepNestedClock s).ph := by
  unfold stepNestedClock
  split_ifs with he
  · exact .enters (.nestedExpired hp he)
  · exact .outside rfl

theorem plainStep_leads : Leads s (plainStep s).ph := by
  unfold plainStep
  split
  case h_1 => exact stepEntry_leads
  case h_5 => exact stepPoll_leads
  case h_6 hp => exact stepClock_leads hp
  case h_7 hp => exact stepEval_leads hp
  case h_9 => unfold stepBufw afterStore; split_ifs <;> exact Leads.enterStep _ _
  case h_11 => exact stepNestedPoll_leads
  case h_12 hp => exact stepNestedClock_leads hp
  case h_2 | h_3 | h_4 | h_8 | h_10 => exact .outside rfl
  all_goals exact .stay rfl

theorem afterControlWord_leads (w : Byte) : Leads s (afterControlWord (busWrite w s)).ph := by
  unfold afterControlWord
  split <;> rename_i hp
  case h_1 => exact .outside rfl
  case h_2 => exact .enters (.secondWrite ((busWrite_ph w s).symm.trans hp))
  case h_3 => exact Leads.returnWith s (busWrite w s) _ (busWrite_ph w s)
  case h_4 => exact .outside rfl
  case h_5 => exact .enters (.nestedSecondWrite ((busWrite_ph w s).symm.trans hp))
  case h_6 => exact Leads.returnWith s (busWrite w s) _ (busWrite_ph w s)
  all_goals exact .stay (busWrite_ph w s)

theorem engineAction_leads {t : State} (h : engineAction s = .next t) : Leads s t.ph := by
  obtain rfl | ⟨w, -, rfl⟩ := engineAction_plain_or_write h
  · exact plainStep_leads
  · exact afterControlWord_leads w

end Leads

/-- Acceptance leaves the position alone, or starts a transaction (40_lifecycle.md R110). -/
theorem Accepted.ph {s t : State} {i : Instr} (h : Accepted s i t) : t.ph = s.ph ∨ t.ph = .entry := by
  cases h with
  | beginCmd => exact .inl (busWrite_ph _ _)
  | endCmd => exact .inl (busWrite_ph _ _)
  | timeoutCmd | setSpeed => exact .inl rfl
  | write | read => exact .inr rfl

/-- Which moves are to come and which words are presented does not matter. -/
theorem Enters.of_queues {s : State} {agenda : List Move} {port : List CommandWord} {ph : Phase}
    (h : Enters { s with agenda := agenda, port := port } ph) : Enters s ph := by
  cases h with
  | expired hp he => exact .expired hp he
  | full hp hprim hfull => exact .full hp hprim hfull
  | nestedExpired hp he => exact .nestedExpired hp he
  | secondWrite hp => exact .secondWrite hp
  | nestedSecondWrite hp => exact .nestedSecondWrite hp

theorem step_leads {s t : State} (h : step s = .next t) : Leads s t.ph := by
  obtain ⟨agenda, ha | ⟨w, rest, i, -, -, ha, hx⟩ | ⟨m, hm, hx⟩⟩ := step_cases h
  · cases engineAction_leads ha with
    | stay hp => exact .stay hp
    | outside hp => exact .outside hp
    | enters he => exact .enters he.of_queues
  · obtain hp | hp := (exec_accepted (s := { s with agenda := agenda, port := rest }) ha hx).ph
    · exact .stay hp
    · exact .outside (by rw [hp]; rfl)
  · exact .stay (by rw [(stepMove_cases hm hx).1])

/-! ## Who writes the words of LOCKUP (R200, R202) -/

/-- A word a position writes issues an event, or is one of LOCKUP's two. -/
theorem controlWordAt_cases {s : State} {w : Byte} (h : controlWordAt s = some w) :
    (∃ prim, w = issueWord s.params prim) ∨
      (w = wOffWord ∧ ((∃ cause, s.ph = .lock0 cause) ∨ s.ph = .nstop .lock0)) ∨
      (w = wEnableWord s.params ∧ ((∃ cause, s.ph = .lock1 cause) ∨ s.ph = .nstop .lock1)) := by
  unfold controlWordAt at h
  split at h <;> rename_i hp
  case h_1 =>
    obtain ⟨prim, -, rfl⟩ := Option.map_eq_some_iff.mp h
    exact .inl ⟨prim, rfl⟩
  case h_2 => exact .inr (.inl ⟨(Option.some.inj h).symm, .inl ⟨_, hp⟩⟩)
  case h_3 => exact .inr (.inr ⟨(Option.some.inj h).symm, .inl ⟨_, hp⟩⟩)
  case h_4 => exact .inl ⟨.stop, (Option.some.inj h).symm⟩
  case h_5 => exact .inr (.inl ⟨(Option.some.inj h).symm, .inr hp⟩)
  case h_6 => exact .inr (.inr ⟨(Option.some.inj h).symm, .inr hp⟩)
  all_goals cases h

theorem wEnableWord_ne_wOffWord {p : Config.Params} (hwf : p.wf = true) : wEnableWord p ≠ wOffWord := by
  have hd := controlWords_distinct hwf
  simp only [List.nodup_cons, List.mem_cons, not_or] at hd
  obtain ⟨⟨hne, -⟩, -⟩ := hd
  exact Ne.symm hne

/-- No issuing word is one of LOCKUP's (30_encoding.md R85). -/
theorem issueWord_ne {p : Config.Params} (hwf : p.wf = true) (prim : Primitive) :
    issueWord p prim ≠ wOffWord ∧ issueWord p prim ≠ wEnableWord p := by
  have hd := controlWords_distinct hwf
  simp only [List.nodup_cons, List.mem_cons, List.not_mem_nil, or_false, not_or] at hd
  obtain ⟨⟨-, hstop, hsend, hrack, hstart⟩, ⟨hstop', hsend', hrack', hstart'⟩, -⟩ := hd
  cases prim with
  | start => exact ⟨Ne.symm hstart, Ne.symm hstart'⟩
  | sendAddr dir => exact ⟨Ne.symm hsend, Ne.symm hsend'⟩
  | sendByte => exact ⟨Ne.symm hsend, Ne.symm hsend'⟩
  | recvByte ack =>
    cases ack with
    | false => exact ⟨Ne.symm hsend, Ne.symm hsend'⟩
    | true => exact ⟨Ne.symm hrack, Ne.symm hrack'⟩
  | stop => exact ⟨Ne.symm hstop, Ne.symm hstop'⟩

/-- W_OFF is the word of LOCKUP's first position. -/
theorem firstWrite_of_wOff {s : State} (hwf : s.params.wf = true) (h : controlWordAt s = some wOffWord) :
    (∃ cause, s.ph = .lock0 cause) ∨ s.ph = .nstop .lock0 := by
  obtain ⟨prim, hw⟩ | ⟨-, hp⟩ | ⟨hw, -⟩ := controlWordAt_cases h
  · exact absurd hw.symm (issueWord_ne hwf prim).1
  · exact hp
  · exact absurd hw.symm (wEnableWord_ne_wOffWord hwf)

/-- W_ENABLE is the word of its second. -/
theorem secondWrite_of_wEnable {s : State} (hwf : s.params.wf = true)
    (h : controlWordAt s = some (wEnableWord s.params)) : (∃ cause, s.ph = .lock1 cause) ∨ s.ph = .nstop .lock1 := by
  obtain ⟨prim, hw⟩ | ⟨hw, -⟩ | ⟨-, hp⟩ := controlWordAt_cases h
  · exact absurd hw.symm (issueWord_ne hwf prim).2
  · exact absurd hw (wEnableWord_ne_wOffWord hwf)
  · exact hp

/-- An engine action writes to CR the word its position holds, or nothing. -/
theorem engineAction_crWords {s t : State} (h : engineAction s = .next t) :
    ∃ new, t.trace = new ++ s.trace ∧ crWords new = (controlWordAt s).toList := by
  obtain ⟨-, rfl⟩ := engineAction_eq h
  split <;> rename_i hw <;> rw [hw]
  case h_1 =>
    obtain ⟨new, ht, hnew⟩ := plainStep_writesOnly (ws := []) s
    exact ⟨new, ht, List.subset_nil.mp hnew⟩
  case h_2 w =>
    obtain ⟨-, ht⟩ | ⟨-, ht⟩ := (afterControlWord_decision (busWrite w s)).result <;> rw [busWrite_trace] at ht
    · exact ⟨[.crWrite w], ht, rfl⟩
    · exact ⟨[.done _ (some _), .crWrite w], ht, rfl⟩

/-- The words a command writes to CR (40_lifecycle.md R111, R112). -/
def commandWords (p : Config.Params) : Instr → List Byte
  | .beginCmd => [wEnableWord p]
  | .endCmd => [wOffWord]
  | _ => []

/-- A command that writes CR ends with its DONE. -/
theorem Accepted.crWords {s t : State} {i : Instr} (h : Accepted s i t) :
    ∃ new, t.trace = new ++ s.trace ∧ crWords new = commandWords s.params i ∧
      (commandWords s.params i ≠ [] → new.head? = some (.done i none)) := by
  cases h with
  | beginCmd => exact ⟨[_, _, _, _, _], congrArg _ (busWrite_trace _ _), rfl, fun _ => rfl⟩
  | endCmd => exact ⟨[_, _], congrArg _ (busWrite_trace _ _), rfl, fun _ => rfl⟩
  | timeoutCmd ms => exact ⟨[_], rfl, rfl, absurd rfl⟩
  | setSpeed fast => exact ⟨[_, _], rfl, rfl, absurd rfl⟩
  | write addr reg count => exact ⟨[], rfl, rfl, absurd rfl⟩
  | read addr reg count => exact ⟨[], rfl, rfl, absurd rfl⟩

/-- A word a step writes to CR is its position's, or an accepted command's, which then emits its DONE last. -/
theorem step_crWords {s t : State} (h : step s = .next t) :
    ∃ new, t.trace = new ++ s.trace ∧ ∀ w ∈ crWords new,
      controlWordAt s = some w ∨ ∃ i, w ∈ commandWords s.params i ∧ new.head? = some (.done i none) := by
  obtain ⟨agenda, ha | ⟨w, rest, i, -, -, ha, hx⟩ | ⟨m, hm, hx⟩⟩ := step_cases h
  · obtain ⟨new, ht, hnew⟩ := engineAction_crWords ha
    exact ⟨new, ht, fun w hw => .inl (Option.mem_toList.mp (hnew ▸ hw))⟩
  · obtain ⟨new, ht, hnew, hhead⟩ :=
      (exec_accepted (s := { s with agenda := agenda, port := rest }) ha hx).crWords
    exact ⟨new, ht, fun w hw => .inr ⟨i, hnew ▸ hw, hhead (List.ne_nil_of_mem (hnew ▸ hw))⟩⟩
  · exact ⟨[], by rw [(stepMove_cases hm hx).1]; rfl, nofun⟩

theorem eq_endCmd_of_wOff {p : Config.Params} (hwf : p.wf = true) {i : Instr} (h : wOffWord ∈ commandWords p i) :
    i = .endCmd := by
  cases i with
  | beginCmd => exact absurd (List.mem_singleton.mp h).symm (wEnableWord_ne_wOffWord hwf)
  | endCmd => rfl
  | _ => cases h

theorem eq_beginCmd_of_wEnable {p : Config.Params} (hwf : p.wf = true) {i : Instr}
    (h : wEnableWord p ∈ commandWords p i) : i = .beginCmd := by
  cases i with
  | beginCmd => rfl
  | endCmd => exact absurd (List.mem_singleton.mp h) (wEnableWord_ne_wOffWord hwf)
  | _ => cases h

/-- Settles O43: how a step can get to each entry of LOCKUP, and whose its two words are. -/
theorem recoveryIsEnteredOnlyWhereTheTableSaysFull : Obligations.RecoveryIsEnteredOnlyWhereTheTableSaysFull := by
  refine ⟨fun s t hwf h => ?_, fun s t i _ ha hx => ?_⟩
  · have moved {ph : Phase} (hp : t.ph = ph) (hne : s.ph ≠ ph) (hin : inLockup ph = true) : Enters s ph := by
      cases hp ▸ step_leads h with
      | stay he => exact absurd he.symm hne
      | outside ho => exact absurd (ho.symm.trans hin) nofun
      | enters he => exact he
    obtain ⟨new, ht, hwords⟩ := step_crWords h
    have same {new' : List Event} (ht' : t.trace = new' ++ s.trace) : new' = new :=
      List.append_cancel_right (ht'.symm.trans ht)
    refine ⟨fun hp hne => ?_, fun hp hne => ?_, fun hp hne => ?_, fun new' ht' hw => ?_, fun new' ht' hw => ?_⟩
    · cases moved hp hne rfl with | expired hclock he => exact ⟨hclock, he⟩
    · cases moved hp hne rfl with | full heval hprim hfull => exact ⟨heval, _, hprim, hfull⟩
    · cases moved hp hne rfl with | nestedExpired hclock he => exact ⟨hclock, he⟩
    · obtain rfl := same ht'
      obtain hpos | ⟨i, hi, hhead⟩ := hwords _ hw
      · exact (firstWrite_of_wOff hwf hpos).imp_right .inl
      · obtain rfl := eq_endCmd_of_wOff hwf hi
        exact .inr (.inr hhead)
    · obtain rfl := same ht'
      obtain hpos | ⟨i, hi, hhead⟩ := hwords _ hw
      · exact (secondWrite_of_wEnable hwf hpos).imp_right .inl
      · obtain rfl := eq_beginCmd_of_wEnable hwf hi
        exact .inr (.inr hhead)
  · obtain hp | hp := (exec_accepted ha hx).ph <;> rw [hp]
    · exact ⟨fun _ he => he, fun he => he⟩
    · exact ⟨nofun, nofun⟩

/-! ## The arbitration table (R201) -/

/-- What P_EVAL does with the follow-up of the status it reads. -/
def followUp (s : State) : FollowUp → State
  | .success => returnWith 0#8 (latchStatus s)
  | .asIs => returnWith (s.bci.status s.params) (latchStatus s)
  | .graceful => (latchStatus s).atPhase (.nstop .t0)
  | .full => enterRecovery .status (latchStatus s)

/-- P_EVAL of a primitive but STOP, by the row of its status. -/
theorem engineAction_followUp {s : State} {prim : Primitive} {f : FollowUp} (hp : s.ph = .eval)
    (hprim : primitiveOf s = some prim) (hne : prim ≠ .stop)
    (hf : arbitrate s.params (s.bci.status s.params) prim = f) : engineAction s = .next (followUp s f) := by
  have hs : s.seq ≠ .tStop := fun hs => hne ((primitiveOf_stop hprim).mpr hs)
  have hu : positionUsed s.seq s.ph = true := by
    rw [hp]
    exact positionUsed_eval hs (positionUsed_of_phaseEdge s.seq (.issue, .poll) (by decide) (positionUsed_issue hprim))
  subst hf
  rw [engineAction_of_plain hu (by simp [controlWordAt, hp])]
  simp only [plainStep, hp, stepEval, hprim]
  rfl

/-- SEND_ADDR's row for the status of its direction that says ACK. -/
theorem primitiveOf_sendAddr {s : State} {ack : Byte}
    (h : (s.seq = .tAddrW ∧ ack = s.params.stMtSlaAck) ∨ (s.seq = .tAddrR ∧ ack = s.params.stMrSlaAck)) :
    ∃ dir, primitiveOf s = some (.sendAddr dir) ∧ ∀ st, addrAck s.params st dir = (st == ack) := by
  obtain ⟨hs, rfl⟩ | ⟨hs, rfl⟩ := h
  · exact ⟨.w, by simp [primitiveOf, hs], fun _ => rfl⟩
  · exact ⟨.r, by simp [primitiveOf, hs], fun _ => rfl⟩

/-- Settles O44: the row of each primitive by the tests of `arbitrate`, in their order. -/
theorem recoveryFollowsTheArbitrationTable : Obligations.RecoveryFollowsTheArbitrationTable := by
  refine ⟨?_, fun s hp hu he => ?_, fun s hwf hs hp hsto => ?_, fun v s => ?_⟩
  · rintro s m S rfl hp rfl
    refine ⟨fun hs => ?_, fun ack hs => ?_, fun hs => ?_, fun hs => ?_⟩
    · have hprim : primitiveOf s = some .start := by obtain hs | hs := hs <;> simp [primitiveOf, hs]
      split_ifs with h1 h2
      · exact engineAction_followUp hp hprim nofun (if_pos h1)
      · exact engineAction_followUp hp hprim nofun ((if_neg h1).trans (if_pos h2))
      · exact engineAction_followUp hp hprim nofun ((if_neg h1).trans (if_neg h2))
    · obtain ⟨dir, hprim, hack⟩ := primitiveOf_sendAddr hs
      split_ifs with h1 h2
      · exact engineAction_followUp (f := .success) hp hprim nofun (by simp [arbitrate, hack, Bci.status, h1])
      · exact engineAction_followUp (f := .graceful) hp hprim nofun
          (by simp [arbitrate, hack, Bci.status, h1, addrNack, h2])
      · exact engineAction_followUp (f := .full) hp hprim nofun (by simp [arbitrate, hack, Bci.status, h1, addrNack, h2])
    · have hprim : primitiveOf s = some .sendByte := by obtain hs | hs := hs <;> simp [primitiveOf, hs]
      split_ifs with h1 h2
      · exact engineAction_followUp hp hprim nofun (if_pos h1)
      · exact engineAction_followUp hp hprim nofun ((if_neg h1).trans (if_pos h2))
      · exact engineAction_followUp hp hprim nofun ((if_neg h1).trans (if_neg h2))
    · have hprim : primitiveOf s = some (.recvByte (wantsAck s)) := by simp [primitiveOf, hs]
      split_ifs with h1
      · exact engineAction_followUp hp hprim nofun (if_pos h1)
      · exact engineAction_followUp hp hprim nofun (if_neg h1)
  · rw [engineAction_clock (hp ▸ hu) (.inl hp), if_pos he, hp]
    rfl
  · have hdone : waitComplete .sto s = true := by rw [waitComplete_sto_of_wf hwf, hsto]; rfl
    have hplain : plainStep s = returnWith 0#8 (pollAction s) := by
      simp only [plainStep, hp, stepPoll, hs, hdone, if_true]
    rw [engineAction_of_plain (by rw [hs, hp]; rfl) (by simp [controlWordAt, hp]), hplain]
    rfl
  · exact ⟨(returnWith_rv_st v s).1, congrArg Surroundings.bci (returnWith_decision v s).surroundings⟩

/-! ## The LOCKUPs of a transaction (R203) -/

/-- What every admitted move keeps holds at the end of a run of such moves. -/
theorem runMoves_keeps {P : State → Prop} {ok : Move → Bool}
    (hstep : ∀ m s t, ok m = true → P s → stepMove m s = .next t → P t) {moves : List Move} {s t : State}
    (hm : moves.all ok = true) (h : P s) (hs : runMoves moves s = .next t) : P t := by
  induction moves generalizing s with
  | nil => cases hs; exact h
  | cons m moves ih =>
    obtain ⟨hm0, hm⟩ : ok m = true ∧ moves.all ok = true := by simpa using hm
    rw [runMoves] at hs
    split at hs
    · next u hu => exact ih hm (hstep m s u hm0 h hu) hs
    · cases hs
    · cases hs

/-- The W_OFF words that the LOCKUP in progress has written. -/
def offWritten : Phase → Nat
  | .lock1 _ => 1
  | .nstop .lock1 => 1
  | _ => 0

/-- Either none, or the LOCKUP stands at its second write. -/
theorem offWritten_cases (ph : Phase) :
    offWritten ph = 0 ∨ (offWritten ph = 1 ∧ ((∃ cause, ph = .lock1 cause) ∨ ph = .nstop .lock1)) := by
  cases ph with
  | lock1 cause => exact .inr ⟨rfl, .inl ⟨cause, rfl⟩⟩
  | nstop sub =>
    cases sub with
    | lock1 => exact .inr ⟨rfl, .inr rfl⟩
    | t0 | issue | poll | clock | lock0 => exact .inl rfl
  | entry | dr | t0 | issue | poll | clock | eval | lock0 | rdr | buf | bufw => exact .inl rfl

theorem offWritten_of_outside {ph : Phase} (h : inLockup ph = false) : offWritten ph = 0 := by
  obtain h0 | ⟨-, ⟨cause, rfl⟩ | rfl⟩ := offWritten_cases ph
  · exact h0
  · cases h
  · cases h

section OneLockup

variable {p : Config.Params} {c : Instr} {ws : List Byte} {base : List Event} {s t : State}

/-- The second write of a LOCKUP returns a value that fails, which ends the transaction. -/
theorem OnCourse.idle_of_secondWrite (h : OnCourse p c ws s) (hwf : p.wf = true)
    (hp : (∃ cause, s.ph = .lock1 cause) ∨ s.ph = .nstop .lock1) (ha : Machine.engineAction s = .next t) :
    t.seq = .idle := by
  obtain ⟨hu, -⟩ := engineAction_eq ha
  have hwf : s.params.wf = true := h.params ▸ hwf
  have ends {v : Byte} (hv : heldReturn s = some v) (hr : Machine.engineAction s = .next (returnWith v (reenabled s))) :
      t.seq = .idle := by
    have hrejected : Rejected (reenabled s) v := (h.fails hv).2
    rw [returnWith_rejected hrejected, ha] at hr
    cases hr
    rfl
  obtain ⟨cause, hp⟩ | hp := hp
  · exact ends (by simp only [heldReturn, hp]) (engineAction_lock1 hwf hp hu)
  · exact ends (by simp only [heldReturn, hp]) (engineAction_nestedLock1 hwf hp hu)

/-- Short of that write, an engine action writes W_OFF exactly if it goes on to it. -/
theorem engineAction_offWritten (hwf : s.params.wf = true) (h0 : offWritten s.ph = 0)
    (ha : engineAction s = .next t) :
    ∃ new, t.trace = new ++ s.trace ∧ (crWords new).count wOffWord = offWritten t.ph := by
  obtain ⟨hu, -⟩ := engineAction_eq ha
  obtain ⟨new, ht, hnew⟩ := engineAction_crWords ha
  refine ⟨new, ht, ?_⟩
  by_cases hw : controlWordAt s = some wOffWord
  · have hone : offWritten t.ph = 1 := by
      obtain ⟨cause, hp⟩ | hp := firstWrite_of_wOff hwf hw
      · rw [engineAction_lock0 hp hu] at ha; cases ha; rfl
      · rw [engineAction_nestedLock0 hp hu] at ha; cases ha; rfl
    rw [hnew, hw, hone]
    rfl
  · have hcount : (crWords new).count wOffWord = 0 := by
      rw [hnew, List.count_eq_zero, Option.mem_toList]
      exact hw
    rw [hcount]
    cases engineAction_leads ha with
    | stay he => rw [he, h0]
    | outside ho => exact (offWritten_of_outside ho).symm
    | enters he =>
      generalize t.ph = ph at he
      cases he with
      | expired | full | nestedExpired => rfl
      | secondWrite hp => exact absurd (by simp [controlWordAt, hp]) hw
      | nestedSecondWrite hp => exact absurd (by simp [controlWordAt, hp]) hw

/-- Since the trace was `base`, the W_OFF words written are those of the LOCKUP in progress. -/
def LockupsTold (base : List Event) (s : State) : Prop :=
  ∃ new, s.trace = new ++ base ∧ (crWords new).count wOffWord = offWritten s.ph

/-- Since the trace was `base`, at most one W_OFF is written up to the DONE of a transaction. -/
def AtMostOneLockup (base : List Event) (s : State) : Prop :=
  ∀ new, s.trace = new ++ base → new.tail.all (fun e => !transactionDone e) = true → (crWords new).count wOffWord ≤ 1

/-- Events that write no W_OFF, in a step that leaves the LOCKUP in progress where it is. -/
theorem LockupsTold.quiet (h : LockupsTold base s) (es : List Event) (ht : t.trace = es ++ s.trace)
    (hp : t.ph = s.ph := by rfl) (hw : crWords es = [] := by rfl) : LockupsTold base t := by
  obtain ⟨new, hs, hnew⟩ := h
  refine ⟨es ++ new, by rw [ht, hs, List.append_assoc], ?_⟩
  rw [crWords_append, hw, hp, List.nil_append, hnew]

theorem atMostOneLockup_of_count {new : List Event} (ht : t.trace = new ++ base)
    (hnew : (crWords new).count wOffWord ≤ 1) : AtMostOneLockup base t := by
  intro new' ht' _
  rwa [List.append_cancel_right (ht'.symm.trans ht)]

theorem LockupsTold.atMostOne (h : LockupsTold base s) : AtMostOneLockup base s := by
  obtain ⟨new, hs, hnew⟩ := h
  refine atMostOneLockup_of_count hs (hnew.trans_le ?_)
  obtain h0 | ⟨h1, -⟩ := offWritten_cases s.ph <;> omega

/-- An engine action of a transaction on course: unless it ends it, the phase goes on telling the W_OFF words. -/
theorem LockupsTold.engineAction (h : LockupsTold base s) (ho : Ongoing p c base s) (hwf : p.wf = true)
    (ha : Machine.engineAction s = .next t) : (t.seq ≠ .idle → LockupsTold base t) ∧ AtMostOneLockup base t := by
  obtain ⟨_, -, -, hcourse⟩ := ho
  have hwf' : s.params.wf = true := hcourse.params ▸ hwf
  obtain ⟨new, hs, hnew⟩ := h
  obtain h0 | ⟨h1, hp⟩ := offWritten_cases s.ph
  · obtain ⟨es, ht, hes⟩ := engineAction_offWritten hwf' h0 ha
    have htold : LockupsTold base t := by
      refine ⟨es ++ new, by rw [ht, hs, List.append_assoc], ?_⟩
      rw [crWords_append, List.count_append, hes, hnew, h0, Nat.add_zero]
    exact ⟨fun _ => htold, htold.atMostOne⟩
  · refine ⟨absurd (hcourse.idle_of_secondWrite hwf hp ha), ?_⟩
    obtain ⟨es, ht, hes⟩ := engineAction_crWords ha
    have hnone : wOffWord ∉ crWords es := by
      rw [hes, Option.mem_toList]
      intro hoff
      obtain ⟨cause, hq⟩ | hq := firstWrite_of_wOff hwf' hoff <;> rw [hq] at h1 <;> cases h1
    refine atMostOneLockup_of_count (new := es ++ new) (by rw [ht, hs, List.append_assoc]) ?_
    rw [crWords_append, List.count_append, List.count_eq_zero.mpr hnone, hnew, h1]

/-- While a transaction is under way only TIMEOUT and SETSPEED are accepted, which write no CR. -/
theorem LockupsTold.accepted (h : LockupsTold base s) (hb : ¬ s.ready = true) {i : Instr} (ha : accepts i s = true)
    (hx : Accepted s i t) : LockupsTold base t := by
  cases hx with
  | timeoutCmd ms => exact h.quiet [.done (.timeoutCmd ms) none] rfl
  | setSpeed fast => exact h.quiet [.done (.setSpeed fast) none, .brWrite _] rfl
  | beginCmd | endCmd | write | read => exact absurd ha hb

/-- Every move of every agent. -/
theorem LockupsTold.stepMove (h : LockupsTold base s) (ho : Ongoing p c base s) (hwf : p.wf = true) {m : Move}
    (hs : Machine.stepMove m s = .next t) : (t.seq ≠ .idle → LockupsTold base t) ∧ AtMostOneLockup base t := by
  by_cases hm : m = .engine
  · subst hm
    obtain ha | ⟨w, rest, i, -, -, ha, hx⟩ := engineStep_cases hs
    · exact h.engineAction ho hwf ha
    · have hacc : accepts i { s with port := rest } = true := (accepts_congr i rfl).trans ha
      have hrest : LockupsTold base { s with port := rest } := h.quiet [] rfl
      have htold := hrest.accepted ho.busy hacc (exec_accepted hacc hx)
      exact ⟨fun _ => htold, htold.atMostOne⟩
  · have hframe := (stepMove_cases hm hs).1
    have htold : LockupsTold base t := h.quiet [] (by rw [hframe]; rfl) (by rw [hframe])
    exact ⟨fun _ => htold, htold.atMostOne⟩

/-- After the DONE no event counts. -/
theorem AtMostOneLockup.stepMove (h : AtMostOneLockup base s) (he : Ended p c base s) {m : Move}
    (hs : Machine.stepMove m s = .next t) : AtMostOneLockup base t := by
  obtain ⟨later, r, old, hold, -, -⟩ := he
  obtain ⟨es, ht⟩ := stepMove_trace hs
  intro new hnew htail
  cases es with
  | nil => exact h new (ht.symm.trans hnew) htail
  | cons e es =>
    rw [ht, hold, ← List.cons_append, ← List.append_assoc, ← List.append_assoc,
      List.append_cancel_right_eq] at hnew
    subst hnew
    simp [transactionDone] at htail

/-- The transaction accepted when the trace was `base` is under way, its W_OFF words told by the phase, or has ended, at
most one written. -/
def OneLockupSoFar (p : Config.Params) (c : Instr) (base : List Event) (s : State) : Prop :=
  (Ongoing p c base s ∧ LockupsTold base s) ∨ (Ended p c base s ∧ AtMostOneLockup base s)

theorem OneLockupSoFar.stepMove (h : OneLockupSoFar p c base s) (hwf : p.wf = true) {m : Move}
    (hm : noZeroStatus p m = true) (hs : Machine.stepMove m s = .next t) : OneLockupSoFar p c base t := by
  obtain ⟨ho, htold⟩ | ⟨he, hone⟩ := h
  · obtain ⟨hnext, hone⟩ := htold.stepMove ho hwf hs
    obtain ho' | he := ho.stepMove hwf hm hs
    · exact .inl ⟨ho', hnext fun hi => ho'.busy (by simp [State.ready, hi])⟩
    · exact .inr ⟨he, hone⟩
  · exact .inr ⟨he.stepMove hs, hone.stepMove he hs⟩

theorem OneLockupSoFar.atMostOne (h : OneLockupSoFar p c base s) : AtMostOneLockup base s :=
  h.elim (fun h => h.2.atMostOne) fun h => h.2

end OneLockup

/-- From the acceptance on, for every schedule that draws no status 0. -/
theorem atMostOneLockup_of_runMoves {s t : State} (hwf : s.params.wf = true) (isRead : Bool) (addr : SlaveAddr)
    (reg : Byte) (count : Nat) {moves : List Move} (hm : moves.all (noZeroStatus s.params) = true)
    (hs : runMoves moves (accept isRead addr reg count s) = .next t) : AtMostOneLockup s.trace t :=
  OneLockupSoFar.atMostOne <| runMoves_keeps (fun _ _ _ hm0 h hs => h.stepMove hwf hm0 hs) hm
    (.inl ⟨ongoing_accept s isRead addr reg count, [], rfl, rfl⟩) hs

/-- Settles O46: every move keeps the bound, from the acceptance on. -/
theorem aTransactionRunsAtMostOneLockup : Obligations.ATransactionRunsAtMostOneLockup := by
  rintro s s1 t i moves new hwf ⟨addr, reg, count, rfl | rfl⟩ hr hx hm hrun ht htail
  · rw [exec_write_of_ready addr reg count hr] at hx
    cases hx
    exact atMostOneLockup_of_runMoves hwf false addr reg count hm hrun new ht htail
  · rw [exec_read_of_ready addr reg count hr] at hx
    cases hx
    exact atMostOneLockup_of_runMoves hwf true addr reg count hm hrun new ht htail

end Sys2Proof.Machine

/-! # Proofs: the BCI and the Time Source (44_bus_controller.md)

A control word is a CR write that always completes (`crWrite_of_mem`), and a completion is enabled by ON and EVT alone
(`Bci.canComplete_iff`, `Bci.canStop_iff`). Which event an engine action emits is said once, position by position
(`plainEvent`); the two kinds of event a command never emits, a clock read and a DR write, are then those of a position
(`step_emits`). -/

namespace Sys2Proof.Machine

/-! ## The control words (R211, R218, R219) -/

theorem crWrite_of_mem {w : Byte} {s : State} (h : w ∈ controlWords s.params) : crWrite w s = .next (busWrite w s) :=
  if_pos (List.contains_iff_mem.mpr h)

theorem issueWord_mem (p : Config.Params) (prim : Primitive) : issueWord p prim ∈ controlWords p := by
  cases prim with
  | recvByte ack => cases ack <;> simp [issueWord, controlWords]
  | start | sendAddr | sendByte | stop => simp [issueWord, controlWords]

/-- An issuing word completes, with the BCI it leaves. -/
theorem crWrite_issueWord_next {s : State} (hwf : s.params.wf = true) (prim : Primitive) {b : Bci}
    (hb : s.bci.crWrite s.params (issueWord s.params prim) s.draws = b) :
    crWrite (issueWord s.params prim) s =
      .next { s with bci := b, trace := .crWrite (issueWord s.params prim) :: s.trace } := by
  rw [crWrite_of_mem (issueWord_mem _ _), busWrite_issueWord hwf, hb]

/-- An XFER is no STOP, so STO stays; its name follows the mode (logs 9, 10). -/
theorem Bci.crWrite_xfer (b : Bci) {p : Config.Params} (hwf : p.wf = true) (ack : Bool) (d : Nat) :
    b.crWrite p (issueWord p (.recvByte ack)) d =
      { b with on := true, ea := ack, sta := false, ie := false, int := false, evt := b.xferEvt ack,
               evtBr := b.br, evtPs := b.ps p } := by
  cases ack with
  | true => rw [issueWord, b.crWrite_wRack d hwf, if_neg (b.xferEvt_ne_stop true)]
  | false => rw [issueWord, wRnackWord_eq, b.crWrite_wSend d hwf, if_neg (b.xferEvt_ne_stop false)]

/-- Settles O22: each word is the one a primitive issues; W_SEND and W_RNACK are the same word. -/
theorem issuingControlWordsStartTheirEvent : Obligations.IssuingControlWordsStartTheirEvent := fun s hwf =>
  have xfer (ack : Bool) := crWrite_issueWord_next hwf (.recvByte ack) (s.bci.crWrite_xfer hwf ack s.draws)
  ⟨crWrite_issueWord_next hwf .start (s.bci.crWrite_wStart _ hwf), xfer false, xfer true, xfer false,
    crWrite_issueWord_next hwf .stop (s.bci.crWrite_wStop _ hwf)⟩

/-- Settles O23: W_ENABLE's write, as a LOCKUP makes it. -/
theorem enablingStartsNoEvent : Obligations.EnablingStartsNoEvent := fun _ => exec_wEnable

theorem exec_wOff (s : State) : exec .wOff s = .next
    { s with bci := s.bci.disable s.params s.draws, trace := .crWrite 0x00#8 :: s.trace, draws := s.draws + 1 } :=
  (crWrite_of_mem (by simp [controlWords])).trans (congrArg _ (busWrite_wOff s))

/-! ## The completions (R213, R215, R216) -/

namespace Bci

variable {b : Bci}

/-- START and the XFERs are the events that are neither NONE nor STOP. -/
theorem canComplete_iff : b.canComplete = true ↔ b.on = true ∧ b.evt ≠ .none ∧ b.evt ≠ .stop := by
  unfold canComplete
  cases b.evt <;> simp [completes]

theorem canStop_iff : b.canStop = true ↔ b.on = true ∧ b.evt = .stop := by simp [canStop]

theorem modeAfter_start (h : b.evt = .start) (p : Config.Params) (sigma : Byte) : b.modeAfter p sigma = .address :=
  if_pos h

theorem modeAfter_addressByte (he : b.evt ≠ .start) (hm : b.mode = .address) (p : Config.Params) (sigma : Byte) :
    b.modeAfter p sigma =
      if b.dr.getLsbD 0 = true ∧ sigma &&& p.srMask = p.stMrSlaAck then .receive else .transmit := by
  simp [modeAfter, he, hm]

theorem modeAfter_transfer (he : b.evt ≠ .start) (hm : b.mode ≠ .address) (p : Config.Params) (sigma : Byte) :
    b.modeAfter p sigma = b.mode :=
  (if_neg he).trans (if_neg hm)

end Bci

section Completions

variable {s : State}

theorem stepMove_complete (h : s.bci.canComplete = true) (sigma delta : Byte) :
    stepMove (.complete sigma delta) s = .next (s.withBci (s.bci.complete s.params sigma delta)) :=
  congrArg _ (if_pos h)

theorem stepMove_complete_disabled (h : ¬ s.bci.canComplete = true) (sigma delta : Byte) :
    stepMove (.complete sigma delta) s = .next s :=
  congrArg _ (if_neg h)

theorem stepMove_stopDone (h : s.bci.canStop = true) : stepMove .stopDone s = .next (s.withBci s.bci.stopDone) :=
  congrArg _ (if_pos h)

theorem stepMove_stopDone_disabled (h : ¬ s.bci.canStop = true) : stepMove .stopDone s = .next s :=
  congrArg _ (if_neg h)

theorem hostAccess_of_noSuchIndex {i : Nat} (f : State → State) (hr : s.ready = true) (hi : s.params.bufSize ≤ i) :
    hostAccess i f s = .refused .noSuchBufIndex :=
  (if_pos hr).trans (if_neg (Nat.not_lt.mpr hi))

end Completions

/-- Settles O24: W_OFF leaves `Bci.disable`, ON enables both completions, and no event is in flight while it is 0. -/
theorem disablingReleasesTheBus : Obligations.DisablingReleasesTheBus := by
  refine ⟨fun s hwf => ?_, fun s hoff => ⟨?_, ?_⟩, fun s hi hoff => ?_⟩
  · have hstatus : (s.bci.disable s.params s.draws).status s.params = Config.freeStatus s.draws &&& s.params.srMask :=
      writeField_and_same _ _ _
    have hps : (s.bci.disable s.params s.draws).ps s.params = s.bci.ps s.params := Bci.withStatus_ps _ hwf _
    exact ⟨_, exec_wOff s, rfl, rfl, rfl, rfl, rfl, rfl, rfl, hstatus, rfl, fun _ => rfl, rfl, rfl, hps, rfl, rfl, rfl⟩
  · simp [Bci.canComplete, hoff]
  · simp [Bci.canStop, hoff]
  · exact not_not.mp fun hevt => absurd (hi.onForEvent hevt) (by simp [hoff])

/-- Settles O26: the completion writes the status field of SR and leaves the prescaler; the event decides between
BUSHELD and DR. -/
theorem completionSetsTheFlagAndTheStatus : Obligations.CompletionSetsTheFlagAndTheStatus := by
  intro s sigma delta hwf hon hnone hstop hmask
  have hps : (s.bci.complete s.params sigma delta).ps s.params = s.bci.ps s.params := Bci.withStatus_ps _ hwf _
  exact ⟨_, stepMove_complete (Bci.canComplete_iff.mpr ⟨hon, hnone, hstop⟩) sigma delta,
    (complete_status _ _ _ _).trans hmask, rfl, rfl, fun he => ⟨if_pos he, if_pos he⟩,
    fun he => ⟨if_neg he, if_neg he⟩, rfl, hps⟩

/-- Settles O27: `Bci.stopDone` writes STO, EVT, BUSHELD and the mode only. -/
theorem stopCompletionReleasesTheBus : Obligations.StopCompletionReleasesTheBus := fun _ hon hevt =>
  ⟨_, stepMove_stopDone (Bci.canStop_iff.mpr ⟨hon, hevt⟩), rfl, rfl, rfl, rfl, rfl, rfl⟩

/-- Settles O28: each premise denies what enables the move. -/
theorem movesThatAreNotEnabledTakeNoEffect : Obligations.MovesThatAreNotEnabledTakeNoEffect := by
  intro s sigma delta
  refine ⟨fun h => stepMove_complete_disabled ?_ sigma delta, fun h => stepMove_stopDone_disabled ?_, fun i b hr hi =>
    ⟨hostAccess_of_noSuchIndex (fun t => t) hr hi,
      hostAccess_of_noSuchIndex (fun t => { t with buf := bufSet t.buf i b }) hr hi⟩⟩
  · rw [Bci.canComplete_iff]
    rintro ⟨hon, hnone, hstop⟩
    obtain hoff | hevt | hevt := h
    · simp [hoff] at hon
    · exact hnone hevt
    · exact hstop hevt
  · rw [Bci.canStop_iff]
    rintro ⟨hon, hevt⟩
    obtain hoff | hne := h
    · simp [hoff] at hon
    · exact hne hevt

/-- Settles O29: an enabled completion leaves the mode `Bci.modeAfter` says: for a START, an address byte and a later
transfer. -/
theorem receiveModeFollowsTheAddressByte : Obligations.ReceiveModeFollowsTheAddressByte := by
  intro s t sigma delta hc h
  rw [stepMove_complete hc] at h
  cases h
  have hmode : (s.withBci (s.bci.complete s.params sigma delta)).bci.mode = s.bci.modeAfter s.params sigma := rfl
  rw [hmode]
  refine ⟨fun he => Bci.modeAfter_start he _ _, fun he hm => ?_, fun he hm => Bci.modeAfter_transfer he hm _ _⟩
  rw [Bci.modeAfter_addressByte he hm]
  split_ifs with hack
  · exact ⟨iff_of_true rfl hack, absurd rfl⟩
  · exact ⟨iff_of_false nofun hack, fun _ => rfl⟩

/-! ## Which event an engine action emits (00_scope.md R9, 10_state.md R23) -/

/-- The event of a position that writes no CR; a position with no action has none. -/
def plainEvent (s : State) : Option Event :=
  match s.ph with
  | .entry => if s.seq = .tStart then some (.now s.now) else none
  | .buf => some (.bufRead s.idx (bufGet s.buf s.idx))
  | .dr => some (.drWrite (byteToSend s))
  | .t0 => some (.now s.now)
  | .poll => some .crRead
  | .clock => some (.now s.now)
  | .eval => some (.srRead s.bci.sr)
  | .rdr => some (.drRead s.bci.dr)
  | .bufw => some (.bufWrite (recvIndex s) s.rxByte)
  | .nstop .t0 => some (.now s.now)
  | .nstop .poll => some .crRead
  | .nstop .clock => some (.now s.now)
  | .nstop _ => none
  | .issue => none
  | .lock0 _ => none
  | .lock1 _ => none

/-- From `s` to `t` the event of the position is emitted, and a DONE may follow it, but not if it is a clock read. -/
def EmitsFirst (s t : State) : Prop :=
  t.trace = (plainEvent s).toList ++ s.trace ∨
    ((∀ v, plainEvent s ≠ some (.now v)) ∧ ∃ c r, t.trace = .done c r :: ((plainEvent s).toList ++ s.trace))

section Positions

variable {s t u : State} {e : Event}

theorem EmitsFirst.only (he : plainEvent s = some e) (ht : t.trace = e :: s.trace) : EmitsFirst s t :=
  .inl (by rw [ht, he]; rfl)

/-- An action other than a clock read leads to `u`, and a decision from there to `t`. -/
theorem EmitsFirst.decided (he : plainEvent s = some e) (hne : ∀ v, e ≠ .now v) (hu : u.trace = e :: s.trace)
    (h : Decision u t) : EmitsFirst s t := by
  obtain ⟨-, ht⟩ | ⟨-, ht⟩ := h.result
  · exact .only he (ht.trans hu)
  · exact .inr ⟨fun v hv => hne v (Option.some.inj (he.symm.trans hv)), _, _, by rw [ht, hu, he]; rfl⟩

/-- A position with no action. -/
theorem EmitsFirst.none (he : plainEvent s = none) (ht : t.trace = s.trace) : EmitsFirst s t :=
  .inl (by rw [ht, he]; rfl)

theorem stepEntry_emits (hp : s.ph = .entry) : EmitsFirst s (stepEntry s) := by
  by_cases hq : s.seq = .tStart
  · exact .only (e := .now s.now) (by simp [plainEvent, hp, hq]) (by simp [stepEntry, hq, stepT0, sampleT0])
  · have he : plainEvent s = .none := by simp [plainEvent, hp, hq]
    unfold stepEntry
    split
    case h_2 hs => exact absurd hs hq
    case h_3 => exact .inr ⟨by simp [he], _, _, by rw [he]; rfl⟩
    all_goals exact .none he rfl

theorem stepPoll_emits (hp : s.ph = .poll) : EmitsFirst s (stepPoll s) := by
  have he : plainEvent s = some .crRead := by simp only [plainEvent, hp]
  unfold stepPoll
  split_ifs
  · exact .decided he nofun rfl (returnWith_decision _ (pollAction s))
  all_goals exact .only he rfl

theorem stepNestedPoll_emits (hp : s.ph = .nstop .poll) : EmitsFirst s (stepNestedPoll s) := by
  have he : plainEvent s = some .crRead := by simp only [plainEvent, hp]
  unfold stepNestedPoll
  split_ifs
  · exact .decided he nofun rfl (returnWith_decision _ (pollAction s))
  all_goals exact .only he rfl

theorem stepClock_emits (hp : s.ph = .clock) : EmitsFirst s (stepClock s) := by
  have he : plainEvent s = some (.now s.now) := by simp only [plainEvent, hp]
  unfold stepClock
  split_ifs <;> exact .only he rfl

theorem stepNestedClock_emits (hp : s.ph = .nstop .clock) : EmitsFirst s (stepNestedClock s) := by
  have he : plainEvent s = some (.now s.now) := by simp only [plainEvent, hp]
  unfold stepNestedClock
  split_ifs <;> exact .only he rfl

theorem stepEval_emits (hp : s.ph = .eval) : EmitsFirst s (stepEval s) := by
  have he : plainEvent s = some (.srRead s.bci.sr) := by simp only [plainEvent, hp]
  unfold stepEval
  split
  · exact .only he rfl
  · dsimp only
    split
    · exact .decided he nofun rfl (returnWith_decision _ (latchStatus s))
    · exact .decided he nofun rfl (returnWith_decision _ (latchStatus s))
    · exact .only he rfl
    · exact .only he rfl

theorem stepBufw_emits (hp : s.ph = .bufw) : EmitsFirst s (stepBufw s) :=
  have he : plainEvent s = some (.bufWrite (recvIndex s) s.rxByte) := by simp only [plainEvent, hp]
  .decided he nofun rfl (Sequencing.afterStore (bufWrite (recvIndex s) s.rxByte s)).toDecision

theorem stepDr_emits (hp : s.ph = .dr) : EmitsFirst s (stepDr s) := by
  unfold stepDr
  rw [drWrite_frame]
  exact .only (by simp only [plainEvent, hp]) rfl

theorem plainStep_emits (s : State) : EmitsFirst s (plainStep s) := by
  unfold plainStep
  split <;> rename_i hp
  case h_1 => exact stepEntry_emits hp
  case h_2 => exact .only (by simp only [plainEvent, hp]) rfl
  case h_3 => exact stepDr_emits hp
  case h_4 => exact .only (by simp only [plainEvent, hp]) rfl
  case h_5 => exact stepPoll_emits hp
  case h_6 => exact stepClock_emits hp
  case h_7 => exact stepEval_emits hp
  case h_8 => exact .only (by simp only [plainEvent, hp]) rfl
  case h_9 => exact stepBufw_emits hp
  case h_10 => exact .only (by simp only [plainEvent, hp]) rfl
  case h_11 => exact stepNestedPoll_emits hp
  case h_12 => exact stepNestedClock_emits hp
  all_goals exact .none (by simp only [plainEvent, hp]) rfl

end Positions

/-- The positions that read the Time Source (44_bus_controller.md R227, log 11). -/
theorem plainEvent_now {s : State} {v : Nat} (h : plainEvent s = some (.now v)) :
    v = s.now ∧ (s.ph = .t0 ∨ s.ph = .clock ∨ s.ph = .nstop .t0 ∨ s.ph = .nstop .clock ∨
      (s.seq = .tStart ∧ s.ph = .entry)) := by
  unfold plainEvent at h
  split at h <;> rename_i hp
  case h_1 =>
    split_ifs at h with hq
    cases h
    exact ⟨rfl, by simp [hp, hq]⟩
  all_goals cases h
  all_goals exact ⟨rfl, by simp [hp]⟩

/-- Only P_DR writes DR (R217). -/
theorem plainEvent_drWrite {s : State} {b : Byte} (h : plainEvent s = some (.drWrite b)) : s.ph = .dr := by
  unfold plainEvent at h
  split at h <;> rename_i hp
  case h_1 => split_ifs at h; cases h
  all_goals cases h
  exact hp

/-- The actions that are a position's alone: no control word, command or decision makes a clock read or a DR write. -/
def positionOnly : Event → Bool
  | .now _ => true
  | .drWrite _ => true
  | _ => false

/-- From `s` to `t` events are only added; a clock read or DR write among them is the position's, and a clock read is
alone. -/
def PositionEvents (s t : State) : Prop :=
  ∃ new, t.trace = new ++ s.trace ∧ (∀ e ∈ new, positionOnly e = true → plainEvent s = some e) ∧
    ∀ v, .now v ∈ new → new = [.now v]

section Steps

variable {s t : State}

/-- Events that no position need give. -/
theorem PositionEvents.of_others (new : List Event) (ht : t.trace = new ++ s.trace)
    (hnew : new.all (fun e => !positionOnly e) = true) : PositionEvents s t := by
  have hno : ∀ e ∈ new, ¬ positionOnly e = true := by simpa using hnew
  exact ⟨new, ht, fun e he hpos => absurd hpos (hno e he), fun v hv => absurd rfl (hno _ hv)⟩

theorem EmitsFirst.positionEvents (h : EmitsFirst s t) : PositionEvents s t := by
  obtain ht | ⟨hne, c, r, ht⟩ := h
  · refine ⟨_, ht, fun e he _ => Option.mem_toList.mp he, fun v hv => ?_⟩
    rw [Option.mem_toList.mp hv]
    rfl
  · refine ⟨.done c r :: (plainEvent s).toList, ht, fun e he hpos => ?_, fun v hv => ?_⟩
    · obtain rfl | he := List.mem_cons.mp he
      · cases hpos
      · exact Option.mem_toList.mp he
    · obtain hv | hv := List.mem_cons.mp hv
      · cases hv
      · exact absurd (Option.mem_toList.mp hv) (hne v)

/-- A CR write and the decision after it. -/
theorem afterControlWord_positionEvents (w : Byte) (s : State) :
    PositionEvents s (afterControlWord (busWrite w s)) := by
  obtain ⟨-, ht⟩ | ⟨-, ht⟩ := (afterControlWord_decision (busWrite w s)).result <;> rw [busWrite_trace] at ht
  · exact .of_others [.crWrite w] ht rfl
  · exact .of_others [.done _ (some _), .crWrite w] ht rfl

theorem engineAction_positionEvents (h : engineAction s = .next t) : PositionEvents s t := by
  obtain rfl | ⟨w, -, rfl⟩ := engineAction_plain_or_write h
  · exact (plainStep_emits s).positionEvents
  · exact afterControlWord_positionEvents w s

/-- The commands' own actions are writes of PU, PS, BR and CR (40_lifecycle.md R111 to R114). -/
theorem Accepted.positionEvents {i : Instr} (h : Accepted s i t) : PositionEvents s t := by
  cases h with
  | beginCmd => exact .of_others [_, _, _, _, _] (congrArg _ (busWrite_trace _ _)) rfl
  | endCmd => exact .of_others [_, _] (congrArg _ (busWrite_trace _ _)) rfl
  | timeoutCmd ms => exact .of_others [_] rfl rfl
  | setSpeed fast => exact .of_others [_, _] rfl rfl
  | write addr reg count => exact .of_others [] rfl rfl
  | read addr reg count => exact .of_others [] rfl rfl

theorem step_positionEvents (h : step s = .next t) : PositionEvents s t := by
  obtain ⟨agenda, ha | ⟨w, rest, i, -, -, ha, hx⟩ | ⟨m, hm, hx⟩⟩ := step_cases h
  · exact engineAction_positionEvents (s := { s with agenda := agenda }) ha
  · exact (exec_accepted (s := { s with agenda := agenda, port := rest }) ha hx).positionEvents
  · exact .of_others [] (by rw [(stepMove_cases hm hx).1]; rfl) rfl

/-! ## NOW (R226) -/

theorem Accepted.now {i : Instr} (h : Accepted s i t) : t.now = s.now := by
  cases h with
  | beginCmd => exact congrArg Surroundings.now (busWrite_surroundings _ (beginPresets s))
  | endCmd => exact congrArg Surroundings.now (busWrite_surroundings _ s)
  | timeoutCmd | setSpeed | write | read => rfl

/-- A step of the engine, the BCI or the host leaves the Time Source alone. -/
theorem stepMove_now {m : Move} (hm : m ≠ .tick) (h : stepMove m s = .next t) : t.now = s.now := by
  by_cases he : m = .engine
  · subst he
    obtain ha | ⟨w, rest, i, -, -, ha, hx⟩ := engineStep_cases h
    · exact congrArg Surroundings.now (engineAction_surroundings ha).1
    · exact (exec_accepted ((accepts_congr (t := { s with port := rest }) i rfl).trans ha) hx).now
  · obtain ⟨-, hnow, -⟩ := stepMove_writer he h
    exact hnow hm

end Steps

/-! ## DR and the Time Source (R217, R227) -/

/-- Settles O25: the write by INT, its frame, and the position of a step that emits it. -/
theorem dataWritesWithoutTheFlagMayBeLost : Obligations.DataWritesWithoutTheFlagMayBeLost := by
  intro s b
  have hbci : (drWrite b s).bci = s.bci.drWrite b s.draws := by rw [drWrite_frame]
  refine ⟨fun hint => hbci.trans (if_pos hint), fun hint => ?_, ?_, fun t h ht => ?_⟩
  · rw [hbci, Bci.drWrite, if_neg (by simp [hint])]
    exact ⟨rfl, ite_eq_or_eq _ _ _⟩
  · rw [drWrite_frame]
  · obtain ⟨new, hnew, hpos, -⟩ := step_positionEvents h
    obtain rfl : new = [.drWrite b] := List.append_cancel_right (hnew.symm.trans ht)
    exact plainEvent_drWrite (hpos _ (List.mem_singleton_self _) rfl)

/-- Settles O30: NOW by whose turn it is, and a clock read is the event of its position. -/
theorem nowReadsTheTimeSource : Obligations.NowReadsTheTimeSource := by
  intro s t h
  obtain ⟨new, hnew, hpos, halone⟩ := step_positionEvents h
  refine ⟨fun htick => ?_, fun htick => ?_, fun v hv => ?_, new, hnew, halone⟩
  · rw [step, htick, nextMove_frame] at h
    cases h
    rfl
  · rw [stepMove_now htick h, nextMove_frame]
  · obtain rfl : new = [.now v] := List.append_cancel_right (hnew.symm.trans hv)
    exact plainEvent_now (hpos _ (List.mem_singleton_self _) rfl)

end Sys2Proof.Machine

/-! # Proofs: errors, refusals and the two races of a wait (60_exceptions.md)

The engine answers at every used position (`engineAction_answers`), so what a step refuses is a word that does not
decode, or a move of the host or of a second writer. A poll that sees its flag leaves the wait whatever the clock says:
the three waits end by an evaluation, by the return of 0 and by the return of S. A clock test that expires enters a
LOCKUP whatever the BCI holds, and the LOCKUP discards a completed event. -/

namespace Sys2Proof.Machine

/-! ## What the engine answers (R240) -/

section Answers

variable {s : State}

theorem engineAction_answers (hu : positionUsed s.seq s.ph = true) : ∃ t, engineAction s = .next t := by
  cases hw : controlWordAt s with
  | none => exact ⟨_, engineAction_of_plain hu hw⟩
  | some w => exact ⟨_, engineAction_write hu hw⟩

/-- A command that is accepted has its effect. -/
theorem exec_answers {i : Instr} (ha : accepts i s = true) : ∃ t, exec i s = .next t := by
  cases i with
  | beginCmd | endCmd | write | read => exact ⟨_, if_pos ha⟩
  | timeoutCmd | setSpeed => exact ⟨_, rfl⟩
  | wStart | wSend | wRack | wRnack | wStop | wEnable | wOff => cases ha

/-- With well-formed words at the port the engine takes its turn: the head is accepted, or held and the transaction goes
on (40_lifecycle.md R110). -/
theorem engineStep_answers (hwf : s.params.wf = true) (hu : positionUsed s.seq s.ph = true)
    (hport : s.port.all (commandWellFormed s.params) = true) : ∃ t, engineStep s = .next t := by
  cases hp : s.port with
  | nil =>
    rw [engineStep_port_nil hp]
    exact engineAction_answers hu
  | cons w rest =>
    rw [hp, List.all_cons, Bool.and_eq_true] at hport
    obtain ⟨i, hi⟩ := (exists_holds_iff hwf).mpr hport.1
    have hd := decodeCommand_eq_ok.mpr hi
    cases ha : accepts i s with
    | true =>
      rw [engineStep_of_accepts hp hd ha]
      exact exec_answers ((accepts_congr (t := { s with port := rest }) i rfl).trans ha)
    | false =>
      rw [engineStep_of_noneAccepted (.inr ⟨w, rest, i, hp, hd, ha⟩)]
      exact engineAction_answers hu

/-- A move of another agent is taken, unless it is a second writer's or a host access that BUF does not admit
(20_memory.md R60, R70, R71). -/
theorem stepMove_answers {m : Move} (hm : m ≠ .engine) (hforeign : ∀ r b, m ≠ .foreignWrite r b)
    (hhost : ∀ i, (m = .hostRead i ∨ ∃ b, m = .hostWrite i b) → s.ready = true ∧ i < s.params.bufSize) :
    ∃ t, stepMove m s = .next t := by
  cases m with
  | engine => exact absurd rfl hm
  | complete | stopDone | tick | present => exact ⟨_, rfl⟩
  | hostRead i =>
    obtain ⟨hr, hi⟩ := hhost i (.inl rfl)
    exact ⟨_, hostRead_of_ready hr hi⟩
  | hostWrite i b =>
    obtain ⟨hr, hi⟩ := hhost i (.inr ⟨b, rfl⟩)
    exact ⟨_, hostWrite_of_ready b hr hi⟩
  | foreignWrite r b => exact absurd rfl (hforeign r b)

end Answers

/-- Settles O4: the invariant gives a used position, and with its move taken from the agenda the state is otherwise the
same. -/
theorem engineIsNeverStuck : Obligations.EngineIsNeverStuck := by
  intro s hi hport hmove
  cases ha : s.agenda with
  | nil =>
    rw [step_agenda_nil ha]
    exact engineStep_answers hi.paramsWf hi.position hport
  | cons m rest =>
    rw [step_agenda_cons ha]
    obtain ⟨hforeign, hhost⟩ := hmove m rest ha
    by_cases hm : m = .engine
    · subst hm
      exact engineStep_answers (s := { s with agenda := rest }) hi.paramsWf hi.position hport
    · exact stepMove_answers (s := { s with agenda := rest }) hm hforeign hhost

/-! ## A poll that sees its flag (R244) -/

section Poll

variable {s : State}

/-- The wait of an event goes on to the evaluation of its status. -/
theorem engineAction_poll_event (hp : s.ph = .poll) (hu : positionUsed s.seq .poll = true) (hs : s.seq ≠ .tStop)
    (hc : waitComplete .int s = true) : engineAction s = .next ((pollAction s).atPhase .eval) := by
  rw [engineAction_of_plain (hp ▸ hu) (by simp [controlWordAt, hp])]
  simp only [plainStep, hp, stepPoll, hs, hc, if_true, if_false]

/-- The final STOP returns 0. -/
theorem engineAction_poll_stop (hp : s.ph = .poll) (hs : s.seq = .tStop) (hc : waitComplete .sto s = true) :
    engineAction s = .next (returnWith 0#8 (pollAction s)) := by
  rw [engineAction_of_plain (by rw [hs, hp]; rfl) (by simp [controlWordAt, hp])]
  simp only [plainStep, hp, stepPoll, hs, hc, if_true]

/-- The return of 0 from the final STOP ends the transaction (41_transactions.md R131, R132). -/
theorem returnWith_zero_of_stop (hs : s.seq = .tStop) :
    returnWith 0#8 s = endTransaction { s with rv := 0#8 } := by
  rw [returnWith_zero (by simp [hs])]
  simp only [continueAfter, hs]

/-- The nested STOP's caller returns S. -/
theorem engineAction_poll_nested (hp : s.ph = .nstop .poll) (hu : positionUsed s.seq (.nstop .poll) = true)
    (hc : waitComplete .sto s = true) : engineAction s = .next (returnWith s.st (pollAction s)) := by
  rw [engineAction_of_plain (hp ▸ hu) (by simp [controlWordAt, hp])]
  simp only [plainStep, hp, stepNestedPoll, hc, if_true]

end Poll

/-- A decision emits nothing, or the DONE of its transaction. -/
theorem Decision.emitsDoneOnly {s t : State} (h : Decision s t) :
    ∃ new, t.trace = new ++ s.trace ∧ new.all transactionDone = true := by
  obtain ⟨-, ht⟩ | ⟨-, ht⟩ := h.result
  · exact ⟨[], ht, rfl⟩
  · exact ⟨[_], ht, rfl⟩

/-- Settles O35, by the three waits: none of their polls looks at the clock. -/
theorem completionWinsOverTimeout : Obligations.CompletionWinsOverTimeout := by
  intro s kind clk hwait hc
  cases hwait with
  | event hp hu hs =>
    exact ⟨_, [], engineAction_poll_event hp hu hs hc, rfl, rfl, rfl, fun _ => ⟨rfl, rfl, rfl⟩, nofun, nofun⟩
  | stop hp hs =>
    have hstop := engineAction_poll_stop hp hs hc
    rw [returnWith_zero_of_stop (s := pollAction s) hs] at hstop
    exact ⟨_, [_], hstop, rfl, rfl, rfl, nofun, fun _ _ => ⟨rfl, rfl, rfl⟩, nofun⟩
  | nested hp hu =>
    have hdecision := returnWith_decision s.st (pollAction s)
    obtain ⟨new, hnew, hall⟩ := hdecision.emitsDoneOnly
    exact ⟨_, new, engineAction_poll_nested hp hu hc, hnew, congrArg Surroundings.bci hdecision.surroundings, hall,
      nofun, nofun, fun _ => (returnWith_rv_st _ _).1⟩

/-! ## A completion after the poll (R245) -/

/-- Settles O39: the expired clock test enters a LOCKUP without a look at the BCI, and every step ends on E_TIMEOUT. -/
theorem aLateCompletionLosesToTheTimeout : Obligations.ALateCompletionLosesToTheTimeout := by
  intro s hwf hp hu hexp hport ha
  have hclock : engineAction s = .next (enterRecovery .timedOut (clockAction s)) := by
    rw [engineAction_clock (hp ▸ hu) (.inl hp), if_pos hexp, hp]
    rfl
  have hlock := positionUsed_of_phaseEdge s.seq (.clock, .lock0 .timedOut) (by decide) hu
  rw [runSteps_action hclock ha hport,
    runSteps_lockup (s := clockAction s) hwf hlock (rejected_eTimeout _) ha hport]
  exact ⟨_, rfl, rfl, rfl, rfl, rfl, endedByLockup_trace _ _⟩

end Sys2Proof.Machine


/-! # Proofs: BEGUN and the wait that hangs (70_reset_and_hazards.md)

BEGUN is read from the DONE events of BEGIN and END, so a step keeps it when every event it adds is another one
(`begun_of_trace`). The event of a position is no DONE (`plainEvent_beginOrEnd`), and the DONE that may follow it is the
transaction's (`Decision.begun`); of the commands only BEGIN and END emit theirs. A wait with TIMEOUT = 0 polls
and is again at the same wait, so the hang is an induction on the steps. -/

namespace Sys2Proof.Machine

/-! ## BEGUN (R273) -/

section Begun

variable {s t : State}

/-- An event that is not the DONE of BEGIN or END does not change BEGUN. -/
theorem begun_of_trace {e : Event} (ht : t.trace = e :: s.trace) (he : beginOrEnd e = none) : begun t = begun s := by
  rw [begun, ht, List.findSome?_cons, he, begun]

theorem begun_of_sameTrace (ht : t.trace = s.trace) : begun t = begun s := by rw [begun, ht, begun]

/-- The command in progress is a WRITE or READ (10_state.md R24). -/
theorem commandOf_not_lifecycle (s : State) (r : Option Byte) : beginOrEnd (.done (commandOf s) r) = none := by
  unfold commandOf
  split_ifs <;> rfl

theorem Decision.begun (h : Decision s t) : begun t = begun s := by
  obtain ⟨-, ht⟩ | ⟨-, ht⟩ := h.result
  · exact begun_of_sameTrace ht
  · exact begun_of_trace ht (commandOf_not_lifecycle s _)

theorem plainEvent_beginOrEnd {e : Event} (h : plainEvent s = some e) : beginOrEnd e = none := by
  unfold plainEvent at h
  split at h
  case h_1 => split_ifs at h; cases h; rfl
  all_goals cases h
  all_goals rfl

/-- A position without an action only decides: T_DONE finishes, and the others stay. -/
theorem plainStep_decision (h : plainEvent s = none) : Decision s (plainStep s) := by
  unfold plainStep
  split <;> rename_i hp
  case h_1 =>
    unfold stepEntry
    split <;> rename_i hq
    case h_2 => simp [plainEvent, hp, hq] at h
    case h_3 => exact ⟨rfl, .inr ⟨rfl, rfl⟩⟩
    all_goals exact ⟨rfl, .inl ⟨rfl, rfl⟩⟩
  case h_13 | h_14 | h_15 | h_16 | h_17 | h_18 => exact ⟨rfl, .inl ⟨rfl, rfl⟩⟩
  all_goals simp [plainEvent, hp] at h

/-- The position's event, and after it at most the DONE of the transaction (20_memory.md R66). -/
theorem plainStep_begun (s : State) : begun (plainStep s) = begun s := by
  cases he : plainEvent s with
  | none => exact (plainStep_decision he).begun
  | some e =>
    have hevent := plainEvent_beginOrEnd he
    obtain ht | ⟨-, c, r, ht⟩ := plainStep_emits s <;> rw [he] at ht
    · exact begun_of_trace ht hevent
    · obtain ⟨u, hact, hseq⟩ := plainStep_actionThenDecision s
      have hone : u.trace.length ≤ s.trace.length + 1 := by
        obtain hu | ⟨_, _, hu⟩ := hact.trace <;> simp [hu]
      obtain ⟨-, hkept⟩ | ⟨-, hdone⟩ := hseq.result
      · rw [← hkept, ht] at hone
        simp at hone
      · have hu : u.trace = e :: s.trace := List.tail_eq_of_cons_eq (hdone.symm.trans ht)
        exact hseq.toDecision.begun.trans (begun_of_trace hu hevent)

theorem engineAction_begun (h : engineAction s = .next t) : begun t = begun s := by
  obtain rfl | ⟨w, -, rfl⟩ := engineAction_plain_or_write h
  · exact plainStep_begun s
  · exact (afterControlWord_decision _).begun.trans (begun_of_trace (busWrite_trace w s) rfl)

theorem Accepted.begun {i : Instr} (h : Accepted s i t) (hb : i ≠ .beginCmd) (he : i ≠ .endCmd) :
    begun t = begun s := by
  cases h with
  | beginCmd => exact absurd rfl hb
  | endCmd => exact absurd rfl he
  | timeoutCmd | setSpeed | write | read => rfl

/-- What `exec` does is the acceptance of a command, or nothing when the command is held, or the write of a control
word. -/
theorem exec_cases {i : Instr} (h : exec i s = .next t) :
    Accepted s i t ∨ t = s ∨ ∃ w, t = busWrite w s := by
  cases ha : accepts i s with
  | true => exact .inl (exec_accepted ha h)
  | false =>
    cases i with
    | beginCmd | endCmd | write | read => cases (if_neg (ne_true_of_eq_false ha)).symm.trans h; exact .inr (.inl rfl)
    | timeoutCmd | setSpeed => cases ha
    | wStart | wSend | wRack | wRnack | wStop | wEnable | wOff => exact .inr (.inr ⟨_, (crWrite_next h).2⟩)

end Begun

/-- Settles O20: BEGIN and END emit their DONE last, and no other step emits one of the two. -/
theorem begunFollowsBeginAndEnd : Obligations.BegunFollowsBeginAndEnd := by
  refine ⟨fun _ => rfl, fun s t hr h => ?_, fun s t hr h => ?_, fun s t i hb he h => ?_,
    fun s t h => engineAction_begun h, fun s t m hm h => begun_of_sameTrace (by rw [(stepMove_cases hm h).1])⟩
  · cases exec_accepted (i := .beginCmd) hr h
    rfl
  · cases exec_accepted (i := .endCmd) hr h
    rfl
  · obtain hacc | rfl | ⟨w, rfl⟩ := exec_cases h
    · exact hacc.begun hb he
    · rfl
    · exact begun_of_trace (busWrite_trace w s) rfl

/-! ## The wait without a timeout (R280) -/

theorem waitComplete_pollAction (kind : WaitKind) (s : State) :
    waitComplete kind (pollAction s) = waitComplete kind s := by
  cases kind <;> rfl

/-- Settles O37: each step is `pollAction`, after which the same wait still sees no event, by induction on the steps. -/
theorem waitWithoutTimeoutHangs : Obligations.WaitWithoutTimeoutHangs := by
  intro n
  induction n with
  | zero => exact fun s kind clk hwait hc _ _ _ => ⟨s, rfl, hwait, hc, rfl, rfl, rfl, rfl, rfl, rfl, rfl⟩
  | succ n ih =>
    intro s kind clk hwait hc htimeout hport ha
    have hpoll : engineAction s = .next (pollAction s) := by rw [engineAction_poll hwait hc, if_pos htimeout]
    obtain ⟨t, hrun, hwait', hc', hseq, hph, hbci, hnow, hrv, hres, htrace⟩ := ih (pollAction s) kind clk
      (hwait.congr rfl rfl) ((waitComplete_pollAction kind s).trans hc) htimeout hport ha
    refine ⟨t, (runSteps_action hpoll ha hport).trans hrun, hwait', hc', hseq, hph, hbci, hnow, hrv, hres, ?_⟩
    calc t.trace
        _ = List.replicate n .crRead ++ .crRead :: s.trace := htrace
        _ = List.replicate (n + 1) .crRead ++ s.trace := by rw [List.replicate_succ', List.append_assoc]; rfl

end Sys2Proof.Machine
